-- ==== Sys2Proof/Word.lean ====
section
/-! DEFINITION. Word.lean: the byte, the only datum the block moves (R13, R56), and its two nibbles (R13). -/
namespace Sys2Proof

/-- A byte, unsigned, bits 7 (most significant) to 0 (R13). -/
abbrev Byte := BitVec 8

/-- The high nibble `v[7:4]` (R13). -/
def hiNibble (v : Byte) : BitVec 4 := v.extractLsb' 4 4

/-- The low nibble `v[3:0]` (R13). -/
def loNibble (v : Byte) : BitVec 4 := v.extractLsb' 0 4

/-- `rep4(b)`: four copies of one bit, `0xF` or `0x0` (R14). -/
def rep4 (b : Bool) : BitVec 4 := if b then 0xF else 0x0

end Sys2Proof
end

