-- ==== Sys2Proof/Config.lean ====
section
/-! DEFINITION. Config.lean: the configuration record `Cfg` of R8, the fixed constants of R8, the answers the bus
driver may give (R9a, R191, R236), and the free values of the model, opaque constants without a body. -/
namespace Sys2Proof

/-- A byte memory: cells of address and byte, addresses strictly rising. An unlisted address of `BUF` has not been
written since reset and holds what the reset drew (`State.bufRead`); an unlisted address of `FROM` does not exist.
Log entries 7 and 21. -/
abbrev Memory := List Host.Cell

/-- The opaque `BusError` of R9(a): a token the block only copies into `Log` (R192, U2). Log entry 11. -/
structure BusError where
  token : Nat
  deriving DecidableEq, Repr, Inhabited

/-- `Result<(), BusError>`, the result of a bus write that returned (R9a). -/
inductive BusResult where
  | ok
  | err (e : BusError)
  deriving DecidableEq, Repr, Inhabited

/-- What the bus driver does with one call of `write`: it returns a result (R191), or it never returns, which holds
the block in that step for ever (R236, U13). Log entries 3 and 4. -/
inductive BusAnswer where
  | returns (r : BusResult)
  | hangs
  deriving DecidableEq, Repr, Inhabited

/-- The configuration record of R8: every OPEN field. The derived fields are in Machine/Geometry.lean, the fixed
ones below. No operation writes a field. -/
structure Cfg where
  /-- `W`, frame width in pixels. -/
  w : Nat
  /-- `H`, frame height in pixels. -/
  h : Nat
  /-- `N`, number of Packed Frames. -/
  n : Nat
  /-- `FROM`, the frame store (R30, R51): frame `i`, byte `k` at address `i*L + k`. -/
  frm : Memory
  /-- `DEV_ADDR`, a number, 7 bits wide when `ConfigOK` holds (R10e). -/
  devAddr : Nat
  /-- `OPC_PWRON`. -/
  opcPwron : Byte
  /-- `OPC_REMAP`. -/
  opcRemap : Byte
  /-- `REMAP_ARG`. -/
  remapArg : Byte
  /-- `OPC_COLWIN`. -/
  opcColwin : Byte
  /-- `OPC_ROWWIN`. -/
  opcRowwin : Byte
  /-- `COL_START`. -/
  colStart : Byte
  /-- `COL_END`. -/
  colEnd : Byte
  /-- `ROW_START`. -/
  rowStart : Byte
  /-- `ROW_END`. -/
  rowEnd : Byte
  /-- `CLEAR_EN`. -/
  clearEn : Bool
  /-- `PANEL_COL_START`. -/
  panelColStart : Byte
  /-- `PANEL_COL_END`. -/
  panelColEnd : Byte
  /-- `PANEL_ROW_START`. -/
  panelRowStart : Byte
  /-- `PANEL_ROW_END`. -/
  panelRowEnd : Byte
  /-- `PANEL_PAYLOAD`, in bytes. -/
  panelPayload : Nat
  deriving DecidableEq, Repr, Inhabited

/-- `CTRL_CMD`, fixed (R8). -/
def ctrlCmd : Byte := 0x00
/-- `CTRL_DATA`, fixed (R8). -/
def ctrlData : Byte := 0x40
/-- `NIB_HI`, fixed (R8). -/
def nibHi : Byte := 0xF0
/-- `NIB_LO`, fixed (R8). -/
def nibLo : Byte := 0x0F

/-- FREE VALUE. The configuration of the deployment that `State.reset` stands for (every field OPEN, R8).
Log entry 2. -/
opaque Config.deployment : Cfg

/-- FREE VALUE. What the bus driver does with the `k`-th write since power-up, where the state's input queue does
not say (R191, U1, U2, U13). Log entry 3. -/
opaque Config.freeAnswer (k : Nat) : BusAnswer

/-- FREE VALUE. The level of `LED` after the `k`-th reset (R35, U4). Log entry 6. -/
opaque Config.ledAtReset (k : Nat) : BitVec 1

/-- FREE VALUE. The byte at offset `a` of `BUF` after the `k`-th reset, a draw for each offset and each reset (R35, U4).
Log entry 7. -/
opaque Config.bufAtReset (k a : Nat) : Byte

end Sys2Proof
end

