-- ==== Sys2Proof/Machine/Memory.lean ====
section
/-! DEFINITION. Machine/Memory.lean: reading and writing one byte of a memory (`MemRead`, `MemWrite` with n = 1,
R15), its canonical form, and a memory made from a byte sequence. -/
namespace Sys2Proof

/-- The byte at address `a`, or nothing where the address is unlisted. -/
def Memory.read : Memory → Nat → Option Byte
  | [], _ => none
  | (x, v) :: m, a => if x = a then some v else Memory.read m a

/-- Write byte `b` at address `a`, keeping the addresses strictly rising. -/
def Memory.write : Memory → Nat → Byte → Memory
  | [], a, b => [(a, b)]
  | (x, v) :: m, a, b =>
    if a < x then (a, b) :: (x, v) :: m
    else if a = x then (a, b) :: m
    else (x, v) :: Memory.write m a b

/-- Every address of the memory is above `lo`, and they rise strictly. -/
def Memory.risesAbove : Nat → Memory → Bool
  | _, [] => true
  | lo, (x, _) :: m => decide (lo < x) && Memory.risesAbove x m

/-- The canonical form: addresses strictly rising. (In `FROM` an unlisted address does not exist. In `BUF` an entry
also records that the offset has been written since reset, R135, so no entry may be dropped for its value.) -/
def Memory.wf : Memory → Bool
  | [] => true
  | (x, _) :: m => Memory.risesAbove x m

/-- Every listed address is below `bound`. -/
def Memory.below (bound : Nat) (m : Memory) : Bool := m.all fun c => decide (c.1 < bound)

/-- The memory that holds `bytes` from address `a` on. -/
def Memory.ofBytes : Nat → List Byte → Memory
  | _, [] => []
  | a, b :: bs => (a, b) :: Memory.ofBytes (a + 1) bs

end Sys2Proof
end

