-- ==== Sys2Proof/Machine/Geometry.lean ====
section
/-! DEFINITION. Machine/Geometry.lean: the derived fields of `Cfg` (R8) and the conditions (a) to (f) of
`ConfigOK` (R10), one definition each. -/
namespace Sys2Proof

/-- `RB = ceil(W/8)`, row bytes (R8). -/
def Cfg.rb (c : Cfg) : Nat := (c.w + 7) / 8

/-- `L = RB * H`, Packed Frame length (R8). -/
def Cfg.l (c : Cfg) : Nat := c.rb * c.h

/-- `P = (W/2) * H`, full-frame payload length (R8). -/
def Cfg.p (c : Cfg) : Nat := c.w / 2 * c.h

/-- `CAP = 1 + P`, buffer capacity (R8, R27). -/
def Cfg.cap (c : Cfg) : Nat := 1 + c.p

/-- `CLEAR_WRITES = ceil(PANEL_PAYLOAD / P)` (R8, R157); `P >= 1` whenever `ConfigOK` holds (log entry 20). -/
def Cfg.clearWrites (c : Cfg) : Nat := (c.panelPayload + (c.p - 1)) / c.p

/-- R10(a): at least one frame. -/
def Cfg.hasFrames (c : Cfg) : Bool := decide (1 ≤ c.n)

/-- R10(b): neither side of the geometry is zero. -/
def Cfg.hasArea (c : Cfg) : Bool := decide (1 ≤ c.h) && decide (1 ≤ c.w)

/-- R10(c): `4 * L = P`. -/
def Cfg.lengthsMatch (c : Cfg) : Bool := decide (4 * c.l = c.p)

/-- R10(d): `FROM` holds exactly `N * L` bytes, at addresses 0 to `N * L - 1` (R50a). -/
def Cfg.storeFull (c : Cfg) : Bool := decide (c.frm.map (fun x => x.1) = List.range (c.n * c.l))

/-- R10(e): the device address has 7 bits. -/
def Cfg.addrFits (c : Cfg) : Bool := decide (c.devAddr < 128)

/-- R10(f): a clear, if wanted, covers at least one byte. -/
def Cfg.clearCovers (c : Cfg) : Bool := !c.clearEn || decide (1 ≤ c.panelPayload)

end Sys2Proof
end

