-- ==== Sys2Proof/Machine/Operands.lean ====
section
/-! DEFINITION. Machine/Operands.lean: the operand forms (R88: unsigned bytes of `Cfg`, sent unchanged) and the
transaction formats C0, C1, C2 and D (R82 to R85). -/
namespace Sys2Proof

/-- REMAP's operand in phase `P_REMAP` (R88). -/
def Cfg.remapOperand (c : Cfg) : Byte := c.remapArg

/-- COLWIN's operands in phase `P_CLR_COL` (R88). -/
def Cfg.panelCols (c : Cfg) : Byte × Byte := (c.panelColStart, c.panelColEnd)

/-- ROWWIN's operands in phase `P_CLR_ROW` (R88). -/
def Cfg.panelRows (c : Cfg) : Byte × Byte := (c.panelRowStart, c.panelRowEnd)

/-- COLWIN's operands in phase `P_WIN_COL` (R88). -/
def Cfg.animCols (c : Cfg) : Byte × Byte := (c.colStart, c.colEnd)

/-- ROWWIN's operands in phase `P_WIN_ROW` (R88). -/
def Cfg.animRows (c : Cfg) : Byte × Byte := (c.rowStart, c.rowEnd)

/-- Format C0: control, opcode (R82). -/
def formatC0 (opcode : Byte) : List Byte := [ctrlCmd, opcode]

/-- Format C1: control, opcode, operand (R83). -/
def formatC1 (opcode a : Byte) : List Byte := [ctrlCmd, opcode, a]

/-- Format C2: control, opcode, range start, range end (R84). -/
def formatC2 (opcode s e : Byte) : List Byte := [ctrlCmd, opcode, s, e]

/-- Format D: control, then the payload (R85). -/
def formatD (payload : List Byte) : List Byte := ctrlData :: payload

end Sys2Proof
end

