-- ==== Sys2Proof/Syntax.lean ====
section
/-! DEFINITION. Syntax.lean: the rows of spec/opcode_table.json as one inductive, the protocol states (R22), the
phases (R90), and what an encoding of an operation is (R81, R90, R93). -/
namespace Sys2Proof

/-- `ST`: the document's four protocol states (R22, R91). -/
inductive Proto where
  | uninitialized
  | poweredOn
  | windowConfigured
  | streaming
  deriving DecidableEq, Repr, Inhabited

/-- `PH`: the fourteen phases (R23, R90). -/
inductive Phase where
  /-- `P_PWRON` -/
  | pwron
  /-- `P_REMAP` -/
  | remap
  /-- `P_CLR_COL` -/
  | clrCol
  /-- `P_CLR_ROW` -/
  | clrRow
  /-- `P_CLR_FILL` -/
  | clrFill
  /-- `P_CLR_SEND` -/
  | clrSend
  /-- `P_WIN_COL` -/
  | winCol
  /-- `P_WIN_ROW` -/
  | winRow
  /-- `P_START` -/
  | start
  /-- `P_UNPACK` -/
  | unpack
  /-- `P_SEND` -/
  | send
  /-- `P_LED` -/
  | led
  /-- `P_NEXT` -/
  | next
  /-- `P_CFGERR` -/
  | cfgErr
  deriving DecidableEq, Repr, Inhabited

/-- The operations of R80 and the table's reference row EXPAND: one constructor per row of the opcode table. -/
inductive Instr where
  /-- PWRON (R131). -/
  | pwron
  /-- REMAP a (R132). -/
  | remap (a : Byte)
  /-- COLWIN s, e (R133). -/
  | colwin (s e : Byte)
  /-- ROWWIN s, e (R134). -/
  | rowwin (s e : Byte)
  /-- WDATA (R135). -/
  | wdata
  /-- UNPKF (R113). -/
  | unpkf
  /-- ZFILL (R114). -/
  | zfill
  /-- START (R160). -/
  | start
  /-- LEDT (R163). -/
  | ledt
  /-- NEXT (R164). -/
  | next
  /-- EXPAND b (R111): a pure function; no phase selects it. -/
  | expand (b : Byte)
  deriving DecidableEq, Repr, Inhabited

/-- An operation as the words of it show it: the operation and, for WDATA, the payload its transaction carries
(R93, R97); the payload is empty for every other operation. -/
structure Request where
  op : Instr
  payload : List Byte
  deriving DecidableEq, Repr, Inhabited

/-- The words of an operation: the byte sequence of a transaction (R81), or the phase code that selects an operation
(R90). -/
inductive Encoding where
  | transaction (bytes : List Byte)
  | phaseCode (c : BitVec 4)
  deriving DecidableEq, Repr, Inhabited

end Sys2Proof
end

