-- ==== Sys2Proof/WellFormed.lean ====
section
/-! DEFINITION. WellFormed.lean: `ConfigOK` (R10), what R93 asks of the opcode bytes, and which requests are
well-formed (R81, R85). Operand bytes are well-formed by their type (R88). -/
namespace Sys2Proof

/-- `ConfigOK(Cfg)` (R10): conditions (a) to (f). -/
def Cfg.configOK (c : Cfg) : Bool :=
  c.hasFrames && c.hasArea && c.lengthsMatch && c.storeFull && c.addrFits && c.clearCovers

/-- R93: the two window commands have different opcode bytes, so a transaction has one reading. -/
def Cfg.opcodesDistinct (c : Cfg) : Bool := decide (c.opcColwin ≠ c.opcRowwin)

/-- A request is well-formed: WDATA carries 1 to `P` payload bytes (R85), every other operation none. -/
def Request.wf (c : Cfg) (r : Request) : Bool :=
  match r.op with
  | .wdata => decide (1 ≤ r.payload.length) && decide (r.payload.length ≤ c.p)
  | _ => r.payload.isEmpty

end Sys2Proof
end

