-- ==== Sys2Proof/Decode.lean ====
section
/-! DEFINITION. Decode.lean: which operation a phase selects (R90), the phase codes (R90) and protocol codes (R91),
the decoder of transactions (R93), total and rejecting by name, and after it the encoder (R81 to R85, R90). At the
end, the reading of a word of spec/opcode_table.json that the host probes with (log entry 13). -/
namespace Sys2Proof

/-- The 4-bit code of a phase (R90). -/
def Phase.code : Phase → BitVec 4
  | .pwron => 0
  | .remap => 1
  | .clrCol => 2
  | .clrRow => 3
  | .clrFill => 4
  | .clrSend => 5
  | .winCol => 6
  | .winRow => 7
  | .start => 8
  | .unpack => 9
  | .send => 10
  | .led => 11
  | .next => 12
  | .cfgErr => 15

/-- The phase of a 4-bit code; codes 13 and 14 are unused (R90). -/
def Phase.ofCode (c : BitVec 4) : Option Phase :=
  match c.toNat with
  | 0 => some .pwron
  | 1 => some .remap
  | 2 => some .clrCol
  | 3 => some .clrRow
  | 4 => some .clrFill
  | 5 => some .clrSend
  | 6 => some .winCol
  | 7 => some .winRow
  | 8 => some .start
  | 9 => some .unpack
  | 10 => some .send
  | 11 => some .led
  | 12 => some .next
  | 15 => some .cfgErr
  | _ => none

/-- The 2-bit code of a protocol state (R91). -/
def Proto.code : Proto → BitVec 2
  | .uninitialized => 0
  | .poweredOn => 1
  | .windowConfigured => 2
  | .streaming => 3

/-- The protocol state of a 2-bit code; all four codes are used (R91). -/
def Proto.ofCode (c : BitVec 2) : Proto :=
  match c.toNat with
  | 0 => .uninitialized
  | 1 => .poweredOn
  | 2 => .windowConfigured
  | _ => .streaming

/-- The protocol state each phase belongs to (R36, R90). -/
def Phase.proto : Phase → Proto
  | .pwron | .remap | .cfgErr => .uninitialized
  | .clrCol | .clrRow | .clrFill | .clrSend | .winCol | .winRow => .poweredOn
  | .start => .windowConfigured
  | .unpack | .send | .led | .next => .streaming

/-- The operation, with its operands, that a phase selects (R90, R88); `P_CFGERR` selects none (R165). -/
def selectOp (c : Cfg) : Phase → Option Instr
  | .pwron => some .pwron
  | .remap => some (.remap c.remapOperand)
  | .clrCol => some (.colwin c.panelCols.1 c.panelCols.2)
  | .clrRow => some (.rowwin c.panelRows.1 c.panelRows.2)
  | .clrFill => some .zfill
  | .clrSend => some .wdata
  | .winCol => some (.colwin c.animCols.1 c.animCols.2)
  | .winRow => some (.rowwin c.animRows.1 c.animRows.2)
  | .start => some .start
  | .unpack => some .unpkf
  | .send => some .wdata
  | .led => some .ledt
  | .next => some .next
  | .cfgErr => none

/-- Why the decoder rejects. -/
inductive DecodeError where
  /-- No byte at all: a transaction has at least two (R81). -/
  | emptyTransaction
  /-- A control byte other than `0x00` and `0x40` (R92). -/
  | badControl (c : Byte)
  /-- A data transaction with no payload (R93: length at least 2). -/
  | dataTooShort
  /-- A command opcode of that length that is none of the four (R93). -/
  | unknownCommand (opcode : Byte)
  /-- A command transaction of a length no format has (R93). -/
  | badCommandLength
  /-- `OPC_COLWIN = OPC_ROWWIN`: R93 gives the transaction no single reading (log entry 12). -/
  | ambiguousWindow
  /-- Phase codes 13 and 14 (R90). -/
  | unusedPhase
  /-- Phase code 15, which selects no operation (R165). -/
  | configErrorPhase
  deriving DecidableEq, Repr

/-- A window command of format C2 (R93). -/
def decodeWindow (c : Cfg) (opcode s e : Byte) : Except DecodeError Request :=
  if opcode = c.opcColwin then
    if opcode = c.opcRowwin then .error .ambiguousWindow
    else .ok (Request.mk (.colwin s e) [])
  else if opcode = c.opcRowwin then .ok (Request.mk (.rowwin s e) [])
  else .error (.unknownCommand opcode)

/-- The bytes of a command transaction after its control byte (R93). -/
def decodeCommand (c : Cfg) : List Byte → Except DecodeError Request
  | [o] => if o = c.opcPwron then .ok (Request.mk .pwron []) else .error (.unknownCommand o)
  | [o, a] => if o = c.opcRemap then .ok (Request.mk (.remap a) []) else .error (.unknownCommand o)
  | [o, s, e] => decodeWindow c o s e
  | _ => .error .badCommandLength

/-- A transaction back to an operation (R93). -/
def decodeTransaction (c : Cfg) : List Byte → Except DecodeError Request
  | [] => .error .emptyTransaction
  | b :: rest =>
    if b = ctrlData then
      if rest.isEmpty then .error .dataTooShort else .ok (Request.mk .wdata rest)
    else if b = ctrlCmd then decodeCommand c rest
    else .error (.badControl b)

/-- A phase code to the operation it selects (R90). WDATA's payload is `BUF`'s, not the code's, so none is shown. -/
def decodePhase (c : Cfg) (code : BitVec 4) : Except DecodeError Request :=
  match Phase.ofCode code with
  | none => .error .unusedPhase
  | some p =>
    match selectOp c p with
    | none => .error .configErrorPhase
    | some i => .ok (Request.mk i [])

/-- The decoder, total on any words. -/
def decode (c : Cfg) : Encoding → Except DecodeError Request
  | .transaction t => decodeTransaction c t
  | .phaseCode k => decodePhase c k

/-- The words of a request: the transaction a framer operation emits (R82 to R85), the phase code that selects an
internal operation (R90); EXPAND has none (R111: "Encoding reference: none"). -/
def encode (c : Cfg) (r : Request) : Option Encoding :=
  match r.op with
  | .pwron => some (.transaction (formatC0 c.opcPwron))
  | .remap a => some (.transaction (formatC1 c.opcRemap a))
  | .colwin s e => some (.transaction (formatC2 c.opcColwin s e))
  | .rowwin s e => some (.transaction (formatC2 c.opcRowwin s e))
  | .wdata => some (.transaction (formatD r.payload))
  | .unpkf => some (.phaseCode Phase.unpack.code)
  | .zfill => some (.phaseCode Phase.clrFill.code)
  | .start => some (.phaseCode Phase.start.code)
  | .ledt => some (.phaseCode Phase.led.code)
  | .next => some (.phaseCode Phase.next.code)
  | .expand _ => none

/-! The table's words. A row's number has its last transmitted byte at bits 7..0 and the control byte at the top
(98_reader.md: "read as one number"). Rows of format INT are one byte whose low nibble is `PH`. -/

/-- The `k` bytes of a number, most significant first. -/
def tableBytes : Nat → Nat → List Byte
  | 0, _ => []
  | k + 1, w => BitVec.ofNat 8 (w / 256 ^ k) :: tableBytes k w

/-- The words a number of the table stands for: two or more bytes are a transaction; one byte below 16 is a phase
code; the single byte `0x40` is WDATA's control byte with its payload left at zeros. -/
def tableEncoding (nbits w : Nat) : Encoding :=
  match tableBytes (nbits / 8) w with
  | [b] =>
    if b = ctrlData then .transaction (formatD (List.replicate 4 0))
    else if b.toNat < 16 then .phaseCode (b.setWidth 4)
    else .transaction [b]
  | t => .transaction t

/-- The probe configuration: the geometry, frame and window of program P1 (95 section 4) with the non-normative
opcode bytes of G2. It stands for a loaded program where the host probes; no statement rests on it. Log entry 13. -/
def Cfg.probe : Cfg where
  w := 8
  h := 1
  n := 1
  frm := [(0, 0xB0)]
  devAddr := 0x3C
  opcPwron := 0xAF
  opcRemap := 0xA0
  remapArg := 0x51
  opcColwin := 0x15
  opcRowwin := 0x75
  colStart := 0
  colEnd := 3
  rowStart := 0
  rowEnd := 0
  clearEn := false
  panelColStart := 0
  panelColEnd := 63
  panelRowStart := 0
  panelRowEnd := 127
  panelPayload := 8

/-- The configuration under which a word of the table is one this machine emits: the word's opcode field (an OPEN
parameter, D5) and its operands are put into the probe configuration. A word of length 4 whose opcode byte is the
probe's `OPC_ROWWIN` is read as ROWWIN, any other as COLWIN: the table's two rows differ in nothing else. -/
def Cfg.forEncoding : Encoding → Cfg
  | .phaseCode _ => Cfg.probe
  | .transaction t =>
    match t with
    | [_, o] => if t.head? = some ctrlCmd then { Cfg.probe with opcPwron := o } else Cfg.probe
    | [_, o, a] => if t.head? = some ctrlCmd then { Cfg.probe with opcRemap := o, remapArg := a } else Cfg.probe
    | [_, o, s, e] =>
      if t.head? = some ctrlCmd then
        if o = Cfg.probe.opcRowwin then { Cfg.probe with rowStart := s, rowEnd := e }
        else { Cfg.probe with opcColwin := o, colStart := s, colEnd := e }
      else Cfg.probe
    | _ => Cfg.probe

/-- The probe geometry for a data transaction of `n` payload bytes: 8 pixels wide, one row for every four bytes. -/
def Cfg.withRowsFor (c : Cfg) (n : Nat) : Cfg :=
  { c with h := (n + 3) / 4, frm := Memory.ofBytes 0 (List.replicate ((n + 3) / 4) 0) }

/-- The operation the decoder reads from a word of spec/opcode_table.json (fixed name of the host). -/
def decodeTableWord (nbits w : Nat) : Option Instr :=
  match decode (Cfg.forEncoding (tableEncoding nbits w)) (tableEncoding nbits w) with
  | .ok r => some r.op
  | .error _ => none

end Sys2Proof
end

