-- ==== Sys2Proof/Machine/State.lean ====
section
/-! DEFINITION. Machine/State.lean: the state (R21, with the model's own input and bookkeeping fields named as such),
the events of the output trace (R33), why a step can stop, and the state after reset (R35). -/
namespace Sys2Proof.Machine

/-- One event of the output trace (R33). -/
inductive Event where
  /-- One call of the bus primitive: address, bytes, result. -/
  | bus (addr : Nat) (bytes : List Byte) (r : BusResult)
  /-- One line to the debug sink: the bus error and the phase it was raised in (R192). -/
  | log (e : BusError) (p : Phase)
  /-- The status output toggled to this level (R163). -/
  | led (v : BitVec 1)
  deriving DecidableEq, Repr, Inhabited

/-- The state: the elements of R21, then the model's own fields. -/
structure State where
  /-- MODEL'S OWN: the configuration `Cfg` (R8, R37), `FROM` among it (R30). No step writes it. Log entry 1. -/
  cfg : Cfg
  /-- `ST`, the protocol state (R22). -/
  st : Proto
  /-- `PH`, the phase register (R23). -/
  ph : Phase
  /-- `FI`, the frame index (R24). -/
  fi : Nat
  /-- `CC`, the clear counter (R25). -/
  cc : Nat
  /-- `LEN`, the bytes of `BUF` in use (R26). -/
  len : Nat
  /-- `BUF`, the Display Pixel Buffer (R27), `CAP` bytes: the offsets written since reset with their bytes; every other
  offset below `CAP` holds the byte the reset drew (`State.bufRead`). Log entry 7. -/
  buf : Memory
  /-- `LED`, the level last driven on the status output (R28). -/
  led : BitVec 1
  /-- `WINC`, the column range last issued (R29). -/
  winc : Option (Byte × Byte)
  /-- `WINR`, the row range last issued (R29). -/
  winr : Option (Byte × Byte)
  /-- `OUT`, the output trace, oldest event first (R33). -/
  out : List Event
  /-- MODEL'S OWN: the reset input (R9e, R220) at the next step. Log entry 5. -/
  rst : Bool
  /-- MODEL'S OWN: what the bus driver will do with the next writes, oldest first, as far as the environment has
  settled it (R191). Log entry 3. -/
  busIn : List BusAnswer
  /-- MODEL'S OWN: how many bus writes have been answered since power-up, the argument of the free value
  `Config.freeAnswer`. Log entry 3. -/
  drawn : Nat
  /-- MODEL'S OWN: how many resets have been taken, the argument of the free values `Config.ledAtReset` and
  `Config.bufAtReset`. Log entries 6 and 7. -/
  resets : Nat
  /-- MODEL'S OWN: the value the last EXPAND run as a row of the table returned (R111). Log entry 9. -/
  shown : List Byte
  deriving DecidableEq, Repr, Inhabited

/-- Why the machine stops. -/
inductive Fault where
  /-- `E_CFG` (R196, R210): raised by `step` in phase `P_CFGERR`, which has no step: the block is stuck. Safe: the
  spec gives no successor. -/
  | configError
  /-- Raised by the five framer operations when the bus write never returns (R236, U13): stuck in that step. Safe. -/
  | busNeverReturns
  /-- Raised by UNPKF on a read of an address `FROM` does not have (R50a). Not reachable under `ConfigOK` (R66).
  Safe. Log entry 10. -/
  | frameStoreAbsent (addr : Nat)
  /-- Raised by UNPKF on a write to an offset `BUF` does not have (R50b); the same check in ZFILL and WDATA never
  fails. Not reachable under `ConfigOK` (R66, R225). Safe. Log entry 10. -/
  | bufferBeyondCapacity (addr : Nat)
  /-- Raised by START and NEXT when `N = 0` (R160, R171, R196). Not reachable under `ConfigOK`. Safe. Log entry 10. -/
  | emptySequence
  deriving DecidableEq, Repr, Inhabited

/-- Why the machine gives an instruction no meaning. -/
inductive Refusal where
  /-- Raised by `exec` for an instruction that has no meaning yet: none. Safe. -/
  | notModelled (mnemonic : String)
  /-- Raised by WDATA outside `2 <= LEN <= CAP` with every payload byte written since reset: "the spec gives WDATA no
  meaning (a model refuses)" (R135, U9). Not reachable from reset. Safe. Log entry 7. -/
  | wdataPrecondition
  deriving DecidableEq, Repr, Inhabited

/-- The outcome of an operation or a step. -/
abbrev Result := Host.Outcome State Fault Refusal

/-- The state after a reset (R35, R221): every element the table gives a value has it; every byte of `BUF` and
the level of `LED` are what this reset draws (`State.bufRead`, `Config.ledAtReset`). The environment's inputs are the arguments. -/
def State.resetOf (c : Cfg) (resets drawn : Nat) (busIn : List BusAnswer) : State where
  cfg := c
  st := .uninitialized
  ph := if c.configOK then .pwron else .cfgErr
  fi := 0
  cc := 0
  len := 1
  buf := []
  led := Config.ledAtReset resets
  winc := none
  winr := none
  out := []
  rst := false
  busIn := busIn
  drawn := drawn
  resets := resets
  shown := []

/-- The machine right after its first reset, in the deployment the free value names. -/
def State.reset : State := State.resetOf Config.deployment 0 0 []

end Sys2Proof.Machine
end

