-- ==== Sys2Proof/Machine/Ops.lean ====
section
/-! DEFINITION. Machine/Ops.lean: the named operations over the state: one write per element (R15 `X <- v`), the
accesses to `FROM` and `BUF` (R50), the bus call (R15 `BusWrite`, R130 `xmit`), the error action of R192 as one shared
operation, and reset (R220). -/
namespace Sys2Proof.Machine

/-- `ST <- v`. -/
def State.setSt (v : Proto) (s : State) : State := { s with st := v }
/-- `PH <- v`. -/
def State.setPh (v : Phase) (s : State) : State := { s with ph := v }
/-- `FI <- v`. -/
def State.setFi (v : Nat) (s : State) : State := { s with fi := v }
/-- `CC <- v`. -/
def State.setCc (v : Nat) (s : State) : State := { s with cc := v }
/-- `LEN <- v`. -/
def State.setLen (v : Nat) (s : State) : State := { s with len := v }
/-- `BUF` as a whole becomes `v`. -/
def State.setBuf (v : Memory) (s : State) : State := { s with buf := v }
/-- `LED <- v`. -/
def State.setLed (v : BitVec 1) (s : State) : State := { s with led := v }
/-- `WINC <- v`. -/
def State.setWinc (v : Byte × Byte) (s : State) : State := { s with winc := some v }
/-- `WINR <- v`. -/
def State.setWinr (v : Byte × Byte) (s : State) : State := { s with winr := some v }
/-- `Emit(ev)` (R15). -/
def State.emit (ev : Event) (s : State) : State := { s with out := s.out ++ [ev] }
/-- The next bus answer is used up. -/
def State.takeAnswer (s : State) : State := { s with busIn := s.busIn.tail, drawn := s.drawn + 1 }
/-- The value an EXPAND row returned. -/
def State.setShown (v : List Byte) (s : State) : State := { s with shown := v }

/-- What the bus driver does with the next write: what the environment has settled, else the free value (R191). -/
def State.nextAnswer (s : State) : BusAnswer :=
  match s.busIn with
  | a :: _ => a
  | [] => Config.freeAnswer s.drawn

/-- Do `f` to the next state of an outcome; a stop stays as it is. -/
def mapNext (f : State → State) : Result → Result
  | .next t => .next (f t)
  | .fault r => .fault r
  | .refused r => .refused r

/-- `MemRead(FROM, a, 1)`: an address `FROM` does not have faults (R50a). -/
def readFrom (c : Cfg) (a : Nat) : Except Fault Byte :=
  match c.frm.read a with
  | some b => .ok b
  | none => .error (.frameStoreAbsent a)

/-- The offset of `BUF` has been written since reset (R135). -/
def State.bufWritten (s : State) (a : Nat) : Bool := (s.buf.read a).isSome

/-- The byte of `BUF` at offset `a` (R27): the byte last written there since reset, else the byte the reset drew (R35);
nothing at an offset `BUF` does not have. Log entry 7. -/
def State.bufRead (s : State) (a : Nat) : Option Byte :=
  if a < s.cfg.cap then some ((s.buf.read a).getD (Config.bufAtReset s.resets a)) else none

/-- `MemRead(BUF, a, 1)`: an offset `BUF` does not have faults (R50b). -/
def readBuf (s : State) (a : Nat) : Except Fault Byte :=
  match s.bufRead a with
  | some b => .ok b
  | none => .error (.bufferBeyondCapacity a)

/-- `MemRead(BUF, a, n)`: the `n` bytes from offset `a` on, lowest offset first (R15). -/
def readBufRun (s : State) : Nat → Nat → Except Fault (List Byte)
  | _, 0 => .ok []
  | a, n + 1 =>
    match readBuf s a, readBufRun s (a + 1) n with
    | .ok b, .ok bs => .ok (b :: bs)
    | .error f, _ => .error f
    | .ok _, .error f => .error f

/-- `MemWrite(BUF, a, 1, b)`: an offset `BUF` does not have faults (R50b). -/
def writeBuf (c : Cfg) (a : Nat) (b : Byte) (m : Memory) : Except Fault Memory :=
  if a < c.cap then .ok (m.write a b) else .error (.bufferBeyondCapacity a)

/-- Consecutive bytes into `BUF` from offset `a` on, in increasing offset (R56). -/
def writeRun (c : Cfg) : Nat → List Byte → Memory → Except Fault Memory
  | _, [], m => .ok m
  | a, b :: bs, m =>
    match writeBuf c a b m with
    | .ok m' => writeRun c (a + 1) bs m'
    | .error f => .error f

/-- `raise BusTransactionError(e, PH)` (R192): one log line, and nothing else. It is the machine's one exception
entry: nothing is saved, no mode changes, control goes nowhere (R200), and there is no return (R201). -/
def raiseBusError (e : BusError) (s : State) : State := s.emit (.log e s.ph)

/-- What a returned bus write leaves: its `Bus` event, then the error action if it failed (R130). -/
def afterWrite (bytes : List Byte) (r : BusResult) (s : State) : State :=
  match r with
  | .ok => s.takeAnswer.emit (.bus s.cfg.devAddr bytes r)
  | .err e => raiseBusError e (s.takeAnswer.emit (.bus s.cfg.devAddr bytes r))

/-- `xmit(bytes)` (R130): one call of the bus primitive with `DEV_ADDR`. A write that never returns has no next state
(U13). -/
def xmit (bytes : List Byte) (s : State) : Result :=
  match s.nextAnswer with
  | .returns r => .next (afterWrite bytes r s)
  | .hangs => .fault .busNeverReturns

/-- The events one returned bus write appends (R130, R199): its `Bus` event, and after an `Err` one `Log`. -/
def busEvents (s : State) (bytes : List Byte) (r : BusResult) : List Event :=
  match r with
  | .ok => [.bus s.cfg.devAddr bytes .ok]
  | .err e => [.bus s.cfg.devAddr bytes (.err e), .log e s.ph]

/-- Reset (R220): the state of R35 replaces the state; the step in progress is discarded (R199); the configuration
stays (R8, R35). -/
def takeReset (s : State) : State := State.resetOf s.cfg (s.resets + 1) s.drawn s.busIn

end Sys2Proof.Machine
end

