-- ==== Sys2Proof/Machine/Framer.lean ====
section
/-! DEFINITION. Machine/Framer.lean: the five framer operations (R131 to R135). -/
namespace Sys2Proof.Machine

/-- PWRON (R131): `[0x00, OPC_PWRON]`. -/
def execPwron (s : State) : Result := xmit (formatC0 s.cfg.opcPwron) s

/-- REMAP a (R132): `[0x00, OPC_REMAP, a]`. -/
def execRemap (a : Byte) (s : State) : Result := xmit (formatC1 s.cfg.opcRemap a) s

/-- COLWIN s, e (R133): `[0x00, OPC_COLWIN, s, e]`, then `WINC <- (s, e)` whatever the result. -/
def execColwin (a e : Byte) (s : State) : Result :=
  mapNext (State.setWinc (a, e)) (xmit (formatC2 s.cfg.opcColwin a e) s)

/-- ROWWIN s, e (R134): `[0x00, OPC_ROWWIN, s, e]`, then `WINR <- (s, e)` whatever the result. -/
def execRowwin (a e : Byte) (s : State) : Result :=
  mapNext (State.setWinr (a, e)) (xmit (formatC2 s.cfg.opcRowwin a e) s)

/-- WDATA's precondition on `LEN` (R135): `2 <= LEN <= CAP`. -/
def lenFits (s : State) : Bool := decide (2 ≤ s.len) && decide (s.len ≤ s.cfg.cap)

/-- WDATA's precondition on the payload (R135): every byte of `BUF[1 .. LEN-1]` has been written since reset. -/
def payloadWritten (s : State) : Bool := (List.range (s.len - 1)).all fun j => s.bufWritten (1 + j)

/-- WDATA (R135): `BUF[0] <- 0x40`, then `BUF[0 .. LEN-1]` in one transaction; refused outside the precondition. -/
def execWdata (s : State) : Result :=
  if lenFits s && payloadWritten s then
    match writeBuf s.cfg 0 ctrlData s.buf with
    | .error f => .fault f
    | .ok m =>
      match readBufRun (s.setBuf m) 0 s.len with
      | .error f => .fault f
      | .ok bytes => xmit bytes (s.setBuf m)
  else .refused .wdataPrecondition

end Sys2Proof.Machine
end

