-- ==== Sys2Proof/Machine/Flags.lean ====
section
/-! DEFINITION. Machine/Flags.lean: the block has no flags (R31). The three conditions its sequencer tests are
`ConfigOK` at reset (`State.resetOf`), `CLEAR_EN`, and `CC` against `CLEAR_WRITES` (R172); the last two are here, with the
two one-line computations of the sequencer (R171). -/
namespace Sys2Proof.Machine

/-- The successor of `P_REMAP` (R151, R153). -/
def afterRemap (c : Cfg) : Phase := if c.clearEn then .clrCol else .winCol

/-- The successor of `P_CLR_SEND`, `cc` being `CC` before the step (R151, R157). -/
def afterClearSend (c : Cfg) (cc : Nat) : Phase := if cc + 1 < c.clearWrites then .clrSend else .winCol

/-- `LED ^ 1` (R163). -/
def ledComplement (v : BitVec 1) : BitVec 1 := v ^^^ 1

/-- `(FI + 1) mod N` (R164). -/
def frameAfter (n fi : Nat) : Nat := (fi + 1) % n

end Sys2Proof.Machine
end

