-- ==== Sys2Proof/Machine/Sequencer.lean ====
section
/-! DEFINITION. Machine/Sequencer.lean: START, LEDT and NEXT (R160, R163, R164), what each phase writes besides its
operation (R152 to R165), and how the host's probe words come to be run (log entry 13). -/
namespace Sys2Proof.Machine

/-- START (R160): `FI <- 0`, `ST <- Streaming`, `PH <- P_UNPACK`; not attempted with `N = 0`. -/
def execStart (s : State) : Result :=
  if s.cfg.hasFrames then .next (((s.setFi 0).setSt .streaming).setPh .unpack) else .fault .emptySequence

/-- LEDT (R163): `LED <- LED ^ 1`, `Led` with the new level, `PH <- P_NEXT`. -/
def execLedt (s : State) : Result :=
  .next (((s.setLed (ledComplement s.led)).emit (.led (ledComplement s.led))).setPh .next)

/-- NEXT (R164): `FI <- (FI + 1) mod N`, `PH <- P_UNPACK`. -/
def execNext (s : State) : Result :=
  if s.cfg.hasFrames then .next ((s.setFi (frameAfter s.cfg.n s.fi)).setPh .unpack) else .fault .emptySequence

/-- Parts (2) and (3) of a step (R150): what the phase `p` the step ran writes besides its operation, `PH` last
(R152 to R165). -/
def finishPhase (p : Phase) (s : State) : State :=
  match p with
  | .pwron => s.setPh .remap
  | .remap => (s.setSt .poweredOn).setPh (afterRemap s.cfg)
  | .clrCol => s.setPh .clrRow
  | .clrRow => s.setPh .clrFill
  | .clrFill => (s.setCc 0).setPh .clrSend
  | .clrSend => (s.setCc (s.cc + 1)).setPh (afterClearSend s.cfg s.cc)
  | .winCol => s.setPh .winRow
  | .winRow => (s.setSt .windowConfigured).setPh .start
  | .start => s.setPh .unpack
  | .unpack => s.setPh .send
  | .send => s.setPh .led
  | .led => s.setPh .next
  | .next => s.setPh .unpack
  | .cfgErr => s

/-- The phase that issues a decoded table word, with the word's operands as the animation window's. -/
def probePhase : Instr → Phase
  | .pwron => .pwron
  | .remap _ => .remap
  | .colwin _ _ => .winCol
  | .rowwin _ _ => .winRow
  | .wdata => .send
  | .unpkf => .unpack
  | .zfill => .clrFill
  | .start => .start
  | .ledt => .led
  | .next => .next
  | .expand _ => .cfgErr

/-- The phase a word selects: a phase code its own phase, a transaction the phase that issues it. -/
def wordPhase (e : Encoding) (i : Instr) : Phase :=
  match e with
  | .phaseCode k => (Phase.ofCode k).getD .cfgErr
  | .transaction _ => probePhase i

/-- The program that runs a decoded word next: the probe configuration with the word's parameters, the phase that
selects the operation, a bus that answers `Ok`, and for WDATA the payload in `BUF`. -/
def loadProgram (c : Cfg) (p : Phase) (r : Request) (s : State) : State :=
  let t : State :=
    { s with cfg := c, ph := p, st := p.proto, fi := 0, rst := false, busIn := [.returns .ok] }
  match r.op with
  | .wdata =>
    let payload := if r.payload.isEmpty then List.replicate c.p 0 else r.payload
    { t with cfg := c.withRowsFor payload.length, buf := Memory.ofBytes 1 payload, len := 1 + payload.length }
  | _ => t

/-- The state in which the next step runs the word (log entry 13); a word that does not decode leaves the machine in
`P_CFGERR`, where no operation runs. -/
def placeWord (e : Encoding) (s : State) : State :=
  match decode (Cfg.forEncoding e) e with
  | .ok r => loadProgram (Cfg.forEncoding e) (wordPhase e r.op) r s
  | .error _ => { s with ph := .cfgErr, rst := false }

end Sys2Proof.Machine
end

