-- ==== Sys2Proof/Machine/Unpacker.lean ====
section
/-! DEFINITION. Machine/Unpacker.lean: EXPAND (R111), UNPKF (R113) and ZFILL (R114), with the pixel coordinates of
the two formats (R67). -/
namespace Sys2Proof.Machine

/-- One output byte of EXPAND: `(left ? 0xF0 : 0x00) | (right ? 0x0F : 0x00)` (R111). -/
def pixelPair (left right : Bool) : Byte := (if left then nibHi else 0x00) ||| (if right then nibLo else 0x00)

/-- EXPAND (R111): eight pixels, most significant bit first, to four bytes of two 4-bit pixels. -/
def expand (b : Byte) : List Byte :=
  [pixelPair (b.getLsbD 7) (b.getLsbD 6), pixelPair (b.getLsbD 5) (b.getLsbD 4),
   pixelPair (b.getLsbD 3) (b.getLsbD 2), pixelPair (b.getLsbD 1) (b.getLsbD 0)]

/-- The loop of UNPKF (R113): `count` packed bytes from byte `k` of the frame at `base` on. -/
def unpackBytes (c : Cfg) (base : Nat) : Nat → Nat → Memory → Except Fault Memory
  | 0, _, m => .ok m
  | count + 1, k, m =>
    match readFrom c (base + k) with
    | .error f => .error f
    | .ok b =>
      match writeRun c (1 + 4 * k) (expand b) m with
      | .error f => .error f
      | .ok m' => unpackBytes c base count (k + 1) m'

/-- UNPKF (R113): frame `FI` into `BUF[1 .. 4*L]`, `LEN <- 1 + 4*L`. -/
def execUnpkf (s : State) : Result :=
  match unpackBytes s.cfg (s.fi * s.cfg.l) s.cfg.l 0 s.buf with
  | .error f => .fault f
  | .ok m => .next ((s.setBuf m).setLen (1 + 4 * s.cfg.l))

/-- ZFILL (R114): `BUF[1 .. CAP-1] <- 0x00`, `LEN <- CAP`. -/
def execZfill (s : State) : Result :=
  match writeRun s.cfg 1 (List.replicate (s.cfg.cap - 1) 0x00) s.buf with
  | .error f => .fault f
  | .ok m => .next ((s.setBuf m).setLen s.cfg.cap)

/-- The row EXPAND run by itself (R111: reads `b` only, writes nothing, raises nothing): its value is shown in the
model's own field and every element of R21 stays. Log entry 9. -/
def execExpand (b : Byte) (s : State) : Result := .next (s.setShown (expand b))

/-- Pixel `(x, y)` of Packed Frame `i`: bit `7 - (x mod 8)` of `FROM[i][y*RB + x/8]` (R67). -/
def packedPixel (c : Cfg) (i x y : Nat) : Option Bool :=
  match c.frm.read (i * c.l + (y * c.rb + x / 8)) with
  | some b => some (b.getLsbD (7 - x % 8))
  | none => none

/-- Pixel `(x, y)` of the payload in `BUF`: the high nibble of `BUF[1 + y*(W/2) + x/2]` when `x` is even, the low
nibble when `x` is odd (R67). -/
def payloadPixel (s : State) (x y : Nat) : Option (BitVec 4) :=
  match s.bufRead (1 + y * (s.cfg.w / 2) + x / 2) with
  | some b => some (if x % 2 = 0 then hiNibble b else loNibble b)
  | none => none

end Sys2Proof.Machine
end

