-- ==== Sys2Proof/Machine/Dispatch.lean ====
section
/-! DEFINITION. Machine/Dispatch.lean: one arm per constructor of Instr, each one call of its meaning. -/
namespace Sys2Proof.Machine

def exec (i : Instr) (s : State) : Host.Outcome State Fault Refusal :=
  match i with
  | .pwron => Sys2Proof.Machine.execPwron s
  | .remap a => Sys2Proof.Machine.execRemap a s
  | .colwin a e => Sys2Proof.Machine.execColwin a e s
  | .rowwin a e => Sys2Proof.Machine.execRowwin a e s
  | .wdata => Sys2Proof.Machine.execWdata s
  | .unpkf => Sys2Proof.Machine.execUnpkf s
  | .zfill => Sys2Proof.Machine.execZfill s
  | .start => Sys2Proof.Machine.execStart s
  | .ledt => Sys2Proof.Machine.execLedt s
  | .next => Sys2Proof.Machine.execNext s
  | .expand b => Sys2Proof.Machine.execExpand b s

end Sys2Proof.Machine
end

