-- ==== Sys2Proof/Machine/Step.lean ====
section
/-! DEFINITION. Machine/Step.lean: one step (R150), with reset taking precedence (R199), and the placing of a table
word for the host. -/
namespace Sys2Proof.Machine

/-- One step (R150): a pending reset replaces the state (R220); otherwise the operation the phase selects is executed
and the phase's own writes follow; `P_CFGERR` has no step (R165). -/
def step (s : State) : Host.Outcome State Fault Refusal :=
  if s.rst then .next (takeReset s)
  else
    match selectOp s.cfg s.ph with
    | none => .fault .configError
    | some i => mapNext (finishPhase s.ph) (exec i s)

/-- The state with the word of spec/opcode_table.json placed so that the next step runs it (log entry 13). -/
def State.withFetchWord (s : State) (nbits w : Nat) : State := placeWord (tableEncoding nbits w) s

end Sys2Proof.Machine
end

