-- ==== Sys2Proof/Machine/Commands.lean ====
section
/-! DEFINITION. Machine/Commands.lean: the Command variants and their `send` dispatcher (R96, R97), the
pseudo-operations (R96), the textual form of an operation (R95), and the degenerate deployments (R99). -/
namespace Sys2Proof.Machine

/-- The Command variants (R80, R97), with the added `SetRemap` (D7, C4). -/
inductive Command where
  | powerOn
  | setColumnWindow (s e : Byte)
  | setRowWindow (s e : Byte)
  | writeData
  | setRemap (a : Byte)
  deriving DecidableEq, Repr, Inhabited

/-- Command variant to operation (R97). -/
def Command.toInstr : Command → Instr
  | .powerOn => .pwron
  | .setColumnWindow s e => .colwin s e
  | .setRowWindow s e => .rowwin s e
  | .writeData => .wdata
  | .setRemap a => .remap a

/-- `SEND(c)` (R96): the one framer operation of the variant. -/
def sendCommand (c : Command) (s : State) : Result := exec c.toInstr s

/-- `INIT` (R96). -/
def pseudoInit (c : Cfg) : List Instr := [.pwron, .remap c.remapOperand]

/-- `SETWIN cs, ce, rs, re` (R96). -/
def pseudoSetwin (cols rows : Byte × Byte) : List Instr := [.colwin cols.1 cols.2, .rowwin rows.1 rows.2]

/-- `CLEAR` (R96): the panel window, ZFILL, then WDATA `CLEAR_WRITES` times. -/
def pseudoClear (c : Cfg) : List Instr :=
  pseudoSetwin c.panelCols c.panelRows ++ [.zfill] ++ List.replicate c.clearWrites .wdata

/-- `PLAYFRAME` (R96). -/
def pseudoPlayframe : List Instr := [.unpkf, .wdata, .ledt, .next]

/-- What runs before the frame loop (R96, R170): `INIT; [CLEAR;] SETWIN; START`. -/
def pseudoStartup (c : Cfg) : List Instr :=
  pseudoInit c ++ (if c.clearEn then pseudoClear c else []) ++ pseudoSetwin c.animCols c.animRows ++ [.start]

/-- The operations the next `k` steps select, one after another, as long as the machine steps. -/
def selectedOps : Nat → State → List Instr
  | 0, _ => []
  | k + 1, s =>
    match selectOp s.cfg s.ph, step s with
    | some i, .next t => i :: selectedOps k t
    | _, _ => []

/-- One operand in the textual form. -/
def operandText (b : Byte) : String := toString b.toNat

/-- The textual form of an operation (R95): mnemonic in capitals, operands as numbers separated by commas. -/
def instrText : Instr → String
  | .pwron => "PWRON"
  | .remap a => "REMAP " ++ operandText a
  | .colwin s e => "COLWIN " ++ operandText s ++ ", " ++ operandText e
  | .rowwin s e => "ROWWIN " ++ operandText s ++ ", " ++ operandText e
  | .wdata => "WDATA"
  | .unpkf => "UNPKF"
  | .zfill => "ZFILL"
  | .start => "START"
  | .ledt => "LEDT"
  | .next => "NEXT"
  | .expand b => "EXPAND " ++ operandText b

/-- The blink-only deployment: one frame (R99). -/
def blinkOnly (c : Cfg) : Bool := decide (c.n = 1)

/-- A fill-only deployment: two frames, one of `0x00` bytes and one of `0xFF` bytes, in either order (R99). -/
def fillOnly (c : Cfg) : Bool :=
  decide (c.n = 2) &&
    (decide (c.frm = Memory.ofBytes 0 (List.replicate c.l 0x00 ++ List.replicate c.l 0xFF)) ||
     decide (c.frm = Memory.ofBytes 0 (List.replicate c.l 0xFF ++ List.replicate c.l 0x00)))

end Sys2Proof.Machine
end

