-- ==== Sys2Proof/Machine/Observer.lean ====
section
/-! DEFINITION. Machine/Observer.lean: what the output trace lets one say of the receiving side and no more (R34,
R139, R193, R231): which bytes the controller may have received, and which of its settings are known. The controller
itself is out of scope (R6). -/
namespace Sys2Proof.Machine

/-- Every prefix of a byte sequence, the empty one first. -/
def prefixesOf : List Byte → List (List Byte)
  | [] => [[]]
  | b :: bs => [] :: (prefixesOf bs).map (fun p => b :: p)

/-- The byte sequences the controller may have received of one transaction: all of it after `Ok` (R34), any prefix
after `Err` (R193). -/
def possiblyReceived (bytes : List Byte) : BusResult → List (List Byte)
  | .ok => [bytes]
  | .err _ => prefixesOf bytes

/-- A setting of the controller as the trace shows it: unknown (never written since the block's reset, or a write
that could have changed it failed, R34, R193), or the value last written (R139). -/
inductive Known (α : Type) where
  | unknown
  | is (v : α)
  deriving DecidableEq, Repr, Inhabited

/-- The controller's settings the four commands write (R139). -/
structure ControllerView where
  powered : Known Unit
  remap : Known Byte
  cols : Known (Byte × Byte)
  rows : Known (Byte × Byte)
  deriving DecidableEq, Repr, Inhabited

/-- Nothing is known: the controller is not reset with the block (R220). -/
def ControllerView.blank : ControllerView where
  powered := .unknown
  remap := .unknown
  cols := .unknown
  rows := .unknown

/-- A command the controller has whole sets its own setting, last write wins (R139). -/
def ControllerView.learn (v : ControllerView) : Instr → ControllerView
  | .pwron => { v with powered := .is () }
  | .remap a => { v with remap := .is a }
  | .colwin s e => { v with cols := .is (s, e) }
  | .rowwin s e => { v with rows := .is (s, e) }
  | .wdata => v
  | .unpkf => v
  | .zfill => v
  | .start => v
  | .ledt => v
  | .next => v
  | .expand _ => v

/-- Every setting of a command with this opcode byte becomes unknown. -/
def ControllerView.forgetOpcode (c : Cfg) (o : Byte) (v : ControllerView) : ControllerView where
  powered := if o = c.opcPwron then .unknown else v.powered
  remap := if o = c.opcRemap then .unknown else v.remap
  cols := if o = c.opcColwin then .unknown else v.cols
  rows := if o = c.opcRowwin then .unknown else v.rows

/-- Whatever a transaction could have changed becomes unknown (R34): the settings of every command whose opcode byte
it carries. Each prefix of it that reads as a command, and each that is a command cut short, carries that opcode, also
where two of the four opcode bytes are equal (R193). A data transaction changes no setting. -/
def ControllerView.forgetCommand (c : Cfg) (bytes : List Byte) (v : ControllerView) : ControllerView :=
  match bytes with
  | b :: o :: _ => if b = ctrlCmd then v.forgetOpcode c o else v
  | _ => v

/-- One event seen by the observer: a write that returned `Ok` is read back with R93 and sets what it says (R139), or,
where R93 has no single reading, leaves what it could have changed unknown; after `Err` any prefix may have arrived,
so whatever it could have changed is unknown (R34, R193). -/
def observe (c : Cfg) (v : ControllerView) : Event → ControllerView
  | .bus _ bytes .ok =>
    match decodeTransaction c bytes with
    | .ok q => v.learn q.op
    | .error _ => v.forgetCommand c bytes
  | .bus _ bytes (.err _) => v.forgetCommand c bytes
  | .log _ _ => v
  | .led _ => v

/-- The controller's settings after a trace. -/
def controllerView (c : Cfg) (out : List Event) : ControllerView := out.foldl (observe c) ControllerView.blank

end Sys2Proof.Machine
end

