-- ==== Sys2Proof/Safety.lean ====
section
/-! DEFINITION. Safety.lean: the terms claims are stated in: the invariant of reachable states (R36, R136, R157),
the fairness premise on the bus (R236), what a pass of the frame loop sends (R169), runs of several steps, and when two
states differ in bus results only (R209). -/
namespace Sys2Proof.Machine

/-- The event is one the block may emit (R136): a bus write to `DEV_ADDR` of at least two bytes, the first `0x00` or
`0x40`; or a log line; or a heartbeat. -/
def Event.framed (c : Cfg) : Event → Bool
  | .bus addr bytes _ =>
    decide (addr = c.devAddr) && decide (2 ≤ bytes.length) &&
      (decide (bytes.head? = some ctrlCmd) || decide (bytes.head? = some ctrlData))
  | .log _ _ => true
  | .led _ => true

/-- Every event of the trace is framed (R136). -/
def State.framedOut (s : State) : Bool := s.out.all (Event.framed s.cfg)

/-- The phases of the optional clear (R151). -/
def inClear : Phase → Bool
  | .clrCol | .clrRow | .clrFill | .clrSend => true
  | _ => false

/-- What holds in every state a run from reset reaches (R36, with R26, R136 and R157). -/
structure State.Inv (s : State) : Prop where
  /-- The machine is in `P_CFGERR` exactly when `ConfigOK` fails (R35, R165). -/
  cfgErr : s.ph = .cfgErr ↔ s.cfg.configOK = false
  /-- `ST` is determined by `PH` (R36). -/
  proto : s.st = s.ph.proto
  /-- `FI < N` (R36); in `P_CFGERR` there may be no frame at all. -/
  frame : s.ph ≠ .cfgErr → s.fi < s.cfg.n
  /-- `CC <= CLEAR_WRITES` (R36). -/
  count : s.cc ≤ s.cfg.clearWrites
  /-- In `P_CLR_SEND` a write is still to come (R157). -/
  pending : s.ph = .clrSend → s.cc < s.cfg.clearWrites
  /-- The clear's phases occur only with `CLEAR_EN` (R154). -/
  clear : inClear s.ph = true → s.cfg.clearEn = true
  /-- `1 <= LEN <= CAP` (R36). -/
  lenBound : 1 ≤ s.len ∧ s.len ≤ s.cfg.cap
  /-- Where WDATA runs next the whole buffer is loaded (R135, R221). -/
  loaded : s.ph = .clrSend ∨ s.ph = .send → s.len = s.cfg.cap ∧ ∀ a < s.cfg.cap, 1 ≤ a → s.bufWritten a = true
  /-- In `P_CLR_SEND` the payload is all zeros (R157). -/
  zeros : s.ph = .clrSend → ∀ a < s.cfg.cap, 1 ≤ a → s.bufRead a = some 0x00
  /-- Only offsets below `CAP` have been written (R27). -/
  bufBelow : s.buf.below s.cfg.cap = true
  /-- `BUF` is in canonical form. -/
  bufWf : s.buf.wf = true
  /-- Between the two animation window commands the first is issued (R158). -/
  colSet : s.ph = .winRow → s.winc = some s.cfg.animCols
  /-- From `WindowConfigured` on the shadow window is the animation's (R36, R159). -/
  winSet : s.st = .windowConfigured ∨ s.st = .streaming → s.winc = some s.cfg.animCols ∧ s.winr = some s.cfg.animRows
  /-- Every event is framed (R136). -/
  framed : s.framedOut = true

/-- The bus driver returns from every write it is asked for next, with these results: the fairness premise of R236,
made explicit. -/
def State.BusReturns (s : State) (rs : List BusResult) : Prop :=
  ∃ rest, s.busIn = rs.map BusAnswer.returns ++ rest

/-- `T_i` (R169): the expansion of Packed Frame `i`, byte `k` on, `count` bytes; a missing byte adds nothing. -/
def framePayload (c : Cfg) (i : Nat) : Nat → Nat → List Byte
  | 0, _ => []
  | count + 1, k =>
    (match c.frm.read (i * c.l + k) with
     | some b => expand b
     | none => []) ++ framePayload c i count (k + 1)

/-- The events of one data transaction (R169). -/
def dataEvents (c : Cfg) (p : Phase) (payload : List Byte) : BusResult → List Event
  | .ok => [.bus c.devAddr (formatD payload) .ok]
  | .err e => [.bus c.devAddr (formatD payload) (.err e), .log e p]

/-- What `rs.length` passes of the frame loop from frame `i` and LED level `v` add to the trace (R169, R170). -/
def passEvents (c : Cfg) : Nat → BitVec 1 → List BusResult → List Event
  | _, _, [] => []
  | i, v, r :: rs =>
    dataEvents c .send (framePayload c i c.l 0) r ++ [.led (ledComplement v)] ++
      passEvents c (frameAfter c.n i) (ledComplement v) rs

/-- `k` steps, ending at the first stop. -/
def stepN : Nat → State → Result
  | 0, s => .next s
  | k + 1, s =>
    match step s with
    | .next t => stepN k t
    | .fault r => .fault r
    | .refused r => .refused r

/-- What an event is when bus results are left out: the address and bytes of a write, a heartbeat, and nothing of a
log line (R209). -/
def Event.withoutResult : Event → Option (Nat × List Byte ⊕ BitVec 1)
  | .bus addr bytes _ => some (.inl (addr, bytes))
  | .led v => some (.inr v)
  | .log _ _ => none

/-- The trace with bus results and log lines left out (R209). -/
def State.bareOut (s : State) : List (Nat × List Byte ⊕ BitVec 1) := s.out.filterMap Event.withoutResult

/-- Two states differ at most in bus results: in what the bus has answered or will answer, and in the recorded results
and log lines (R137, R209). -/
def State.SameButResults (s t : State) : Prop :=
  { s with out := [], busIn := [], drawn := 0 } = { t with out := [], busIn := [], drawn := 0 } ∧
    s.bareOut = t.bareOut

/-- The protocol states in the order of the chain of R22. -/
def protoRank : Proto → Nat
  | .uninitialized => 0
  | .poweredOn => 1
  | .windowConfigured => 2
  | .streaming => 3

/-- The successor of a phase, `cc` being `CC` before the step: the graph of R151, one row a line. -/
def successor (c : Cfg) (cc : Nat) : Phase → Option Phase
  | .pwron => some .remap
  | .remap => some (if c.clearEn then .clrCol else .winCol)
  | .clrCol => some .clrRow
  | .clrRow => some .clrFill
  | .clrFill => some .clrSend
  | .clrSend => some (if cc + 1 < c.clearWrites then .clrSend else .winCol)
  | .winCol => some .winRow
  | .winRow => some .start
  | .start => some .unpack
  | .unpack => some .send
  | .send => some .led
  | .led => some .next
  | .next => some .unpack
  | .cfgErr => none

/-- The known value a shadow range would have if the trace's writes reached the controller (R29, R139). -/
def knownOf : Option (Byte × Byte) → Known (Byte × Byte)
  | none => .unknown
  | some w => .is w

/-- What a view says is so: each setting is unknown to it or is the one the controller has (`w`). -/
def ControllerView.Admits (v w : ControllerView) : Prop :=
  (v.powered = .unknown ∨ v.powered = w.powered) ∧ (v.remap = .unknown ∨ v.remap = w.remap) ∧
    (v.cols = .unknown ∨ v.cols = w.cols) ∧ (v.rows = .unknown ∨ v.rows = w.rows)

/-- A controller with settings `w` that has received the bytes `p` could be left with settings `w'`: those of the
command `p` reads as (R139); otherwise any that differ at most in the settings of commands whose opcode `p` carries. -/
def CouldLeave (c : Cfg) (w : ControllerView) (p : List Byte) (w' : ControllerView) : Prop :=
  match decodeTransaction c p with
  | .ok q => w' = w.learn q.op
  | .error _ => w'.forgetCommand c p = w.forgetCommand c p

/-- Every bus write of the trace returned `Ok` (R139). -/
def State.allOk (s : State) : Bool :=
  s.out.all fun ev =>
    match ev with
    | .bus _ _ (.err _) => false
    | _ => true

/-- In a run in which every write returned `Ok`, the controller's ranges are the shadow's (R139, R231). -/
def State.ShadowTrue (s : State) : Prop :=
  s.cfg.opcodesDistinct = true → s.allOk = true →
    (controllerView s.cfg s.out).cols = knownOf s.winc ∧ (controllerView s.cfg s.out).rows = knownOf s.winr

end Sys2Proof.Machine
end

