-- ==== Sys2Proof/Certificates/Slice0/Obligations.lean ====
section
/-! DEFINITION. Certificates/Slice0/Obligations.lean: the statements for the provers. -/
open Sys2Proof Sys2Proof.Machine

/-! ### EXPAND -/

/-- R111: output byte `m` is `(b[7-2m] ? 0xF0 : 0) | (b[6-2m] ? 0x0F : 0)`, that is, its nibbles are `rep4` of those two
bits; there are four output bytes, each one of the four values; and the rule's corner cases and worked example. -/
def Obligations.ExpandMakesTwoNibblesPerByte : Prop :=
  (∀ b : Byte, (expand b).length = 4 ∧
    ∀ m < 4, ∃ o, (expand b)[m]? = some o ∧
      o = (if b.getLsbD (7 - 2 * m) then 0xF0 else 0x00) ||| (if b.getLsbD (6 - 2 * m) then 0x0F else 0x00) ∧
      hiNibble o = rep4 (b.getLsbD (7 - 2 * m)) ∧ loNibble o = rep4 (b.getLsbD (6 - 2 * m)) ∧
      (o = 0x00 ∨ o = 0x0F ∨ o = 0xF0 ∨ o = 0xFF)) ∧
  expand 0x00 = [0x00, 0x00, 0x00, 0x00] ∧ expand 0xFF = [0xFF, 0xFF, 0xFF, 0xFF] ∧
  expand 0xB0 = [0xF0, 0xFF, 0x00, 0x00]

/-- R112, the expansion law: nibble `k`, counted from the most significant, is `0xF` iff bit `7 - k` is set, else
`0x0`. -/
def Obligations.ExpansionLaw : Prop :=
  ∀ (b : Byte) (k : Nat), k < 8 →
    ∃ o, (expand b)[k / 2]? = some o ∧
      (if k % 2 = 0 then hiNibble o else loNibble o) = (if b.getLsbD (7 - k) then (0xF : BitVec 4) else 0x0)

/-- 40_unpacker.md section 1 (the inference marked in R116): EXPAND is injective. -/
def Obligations.ExpandIsInjective : Prop :=
  ∀ a b : Byte, expand a = expand b → a = b

/-- 40_unpacker.md section 1 and the model's choice of log entry 9: the row EXPAND run by itself completes in every
state, shows the four bytes in the model's own field and leaves everything else; no phase selects it. -/
def Obligations.ExpandRowCompletes : Prop :=
  (∀ (s : State) (b : Byte), exec (.expand b) s = .next { s with shown := expand b }) ∧
  ∀ (c : Cfg) (p : Phase) (b : Byte), selectOp c p ≠ some (.expand b)

/-! ### The framer -/

/-- 41_framer.md section 1 (the spec's decision D6): PWRON sends `[0x00, OPC_PWRON]` in one write, logs a failed
write, and changes nothing else. -/
def Obligations.PwronSendsItsCommand : Prop :=
  ∀ (s : State) (r : BusResult), s.nextAnswer = .returns r →
    exec .pwron s = .next { s with
      out := s.out ++ busEvents s [0x00, s.cfg.opcPwron] r, busIn := s.busIn.tail, drawn := s.drawn + 1 }

/-- 41_framer.md section 1 (the spec's decision D6): REMAP a sends `[0x00, OPC_REMAP, a]`. -/
def Obligations.RemapSendsItsCommand : Prop :=
  ∀ (s : State) (a : Byte) (r : BusResult), s.nextAnswer = .returns r →
    exec (.remap a) s = .next { s with
      out := s.out ++ busEvents s [0x00, s.cfg.opcRemap, a] r, busIn := s.busIn.tail, drawn := s.drawn + 1 }

/-- R133: COLWIN s, e sends `[0x00, OPC_COLWIN, s, e]`, unchecked, and `WINC <- (s, e)` whatever the bus result. -/
def Obligations.ColwinSendsAndShadows : Prop :=
  ∀ (s : State) (a e : Byte) (r : BusResult), s.nextAnswer = .returns r →
    exec (.colwin a e) s = .next { s with
      out := s.out ++ busEvents s [0x00, s.cfg.opcColwin, a, e] r, winc := some (a, e),
      busIn := s.busIn.tail, drawn := s.drawn + 1 }

/-- R134: ROWWIN s, e sends `[0x00, OPC_ROWWIN, s, e]`, unchecked, and `WINR <- (s, e)` whatever the bus result. -/
def Obligations.RowwinSendsAndShadows : Prop :=
  ∀ (s : State) (a e : Byte) (r : BusResult), s.nextAnswer = .returns r →
    exec (.rowwin a e) s = .next { s with
      out := s.out ++ busEvents s [0x00, s.cfg.opcRowwin, a, e] r, winr := some (a, e),
      busIn := s.busIn.tail, drawn := s.drawn + 1 }

/-- 41_framer.md section 2 (the spec's decision D13 on when the control byte is stored): within its precondition WDATA
stores `0x40` at `BUF[0]` and sends it with the `LEN - 1` payload bytes in one write. -/
def Obligations.WdataSendsBuffer : Prop :=
  ∀ (s : State) (payload : List Byte) (r : BusResult), 2 ≤ s.len → s.len ≤ s.cfg.cap →
    payload.length = s.len - 1 →
    (∀ j < payload.length, s.bufWritten (1 + j) = true ∧ s.bufRead (1 + j) = payload[j]?) →
    s.nextAnswer = .returns r →
    exec .wdata s = .next { s with
      buf := s.buf.write 0 0x40, out := s.out ++ busEvents s (0x40 :: payload) r,
      busIn := s.busIn.tail, drawn := s.drawn + 1 }

/-- 41_framer.md section 2: outside WDATA's precondition (`2 <= LEN <= CAP`, every payload byte written since reset)
"the spec gives WDATA no meaning (a model refuses)". -/
def Obligations.WdataRefusesOutsidePrecondition : Prop :=
  ∀ s : State, (s.len < 2 ∨ s.cfg.cap < s.len ∨ ∃ a, 1 ≤ a ∧ a < s.len ∧ s.bufWritten a = false) →
    exec .wdata s = .refused .wdataPrecondition

/-- R137: a framer operation changes the state in the same way whether the write returns `Ok` or `Err`; the two
outcomes differ only in the recorded result and the log line. -/
def Obligations.BusResultChangesOnlyTheTrace : Prop :=
  ∀ (s : State) (i : Instr) (r r' : BusResult) (q : List BusAnswer) (t : State),
    (i = .pwron ∨ (∃ a, i = .remap a) ∨ (∃ a e, i = .colwin a e) ∨ (∃ a e, i = .rowwin a e) ∨ i = .wdata) →
    exec i { s with busIn := .returns r :: q } = .next t →
    ∃ bytes, t.out = s.out ++ busEvents s bytes r ∧
      exec i { s with busIn := .returns r' :: q } = .next { t with out := s.out ++ busEvents s bytes r' }

/-- 70_reset_and_hazards.md section 4 and U13 (log entry 4): where the bus write never returns, each framer operation
is stuck in that step. -/
def Obligations.WriteThatNeverReturnsIsStuck : Prop :=
  ∀ s : State, s.nextAnswer = .hangs →
    exec .pwron s = .fault .busNeverReturns ∧ (∀ a, exec (.remap a) s = .fault .busNeverReturns) ∧
    (∀ a e, exec (.colwin a e) s = .fault .busNeverReturns) ∧
    (∀ a e, exec (.rowwin a e) s = .fault .busNeverReturns) ∧
    (2 ≤ s.len → s.len ≤ s.cfg.cap → (∀ a < s.len, 1 ≤ a → s.bufWritten a = true) →
      exec .wdata s = .fault .busNeverReturns)

/-- 41_framer.md sections 1 and 3: the frame of the four command operations. Besides `OUT` and the model's own bus
input they write `WINC` (COLWIN) or `WINR` (ROWWIN) and nothing else; every byte of `BUF` stays. -/
def Obligations.CommandFrame : Prop :=
  ∀ (s t : State) (i : Instr),
    (i = .pwron ∨ (∃ a, i = .remap a) ∨ (∃ a e, i = .colwin a e) ∨ (∃ a e, i = .rowwin a e)) →
    exec i s = .next t →
    t.cfg = s.cfg ∧ t.st = s.st ∧ t.ph = s.ph ∧ t.fi = s.fi ∧ t.cc = s.cc ∧ t.len = s.len ∧ t.led = s.led ∧
      ((∀ a e, i ≠ .colwin a e) → t.winc = s.winc) ∧ ((∀ a e, i ≠ .rowwin a e) → t.winr = s.winr) ∧
      t.rst = s.rst ∧ t.resets = s.resets ∧ t.shown = s.shown ∧
      ∀ a, t.bufRead a = s.bufRead a ∧ t.bufWritten a = s.bufWritten a

/-- 41_framer.md section 2: the frame of WDATA. Besides `OUT` and the model's own bus input it writes `BUF[0]` and
nothing else; offset 0 is the one it stores to. -/
def Obligations.WdataFrame : Prop :=
  ∀ s t : State, exec .wdata s = .next t →
    t.cfg = s.cfg ∧ t.st = s.st ∧ t.ph = s.ph ∧ t.fi = s.fi ∧ t.cc = s.cc ∧ t.len = s.len ∧ t.led = s.led ∧
      t.winc = s.winc ∧ t.winr = s.winr ∧ t.rst = s.rst ∧ t.resets = s.resets ∧ t.shown = s.shown ∧
      t.bufRead 0 = some 0x40 ∧ ∀ a, a ≠ 0 → t.bufRead a = s.bufRead a ∧ t.bufWritten a = s.bufWritten a

/-! ### The unpacker -/

/-- R113: phase `P_UNPACK` selects UNPKF; it completes in every configuration R10 admits for a frame index below `N`; output byte `m` of the
expansion of packed byte `k` stands at `BUF[1 + 4k + m]`, `LEN` is `1 + 4L`, `BUF[0]` and every other element stay, and
no event is emitted. -/
def Obligations.UnpkfUnpacksTheFrame : Prop :=
  (∀ c : Cfg, selectOp c .unpack = some .unpkf) ∧
  ∀ s : State, s.cfg.configOK = true → s.fi < s.cfg.n →
    ∃ t, exec .unpkf s = .next t ∧ t = { s with buf := t.buf, len := 1 + 4 * s.cfg.l } ∧
      (∀ k < s.cfg.l, ∃ b, s.cfg.frm.read (s.fi * s.cfg.l + k) = some b ∧
        ∀ m < 4, t.bufWritten (1 + 4 * k + m) = true ∧ t.bufRead (1 + 4 * k + m) = (expand b)[m]?) ∧
      t.bufRead 0 = s.bufRead 0 ∧ t.bufWritten 0 = s.bufWritten 0

/-- 20_memory.md section 2 and 40_unpacker.md section 2 (the inferences marked in R67 and R118): after UNPKF every
pixel of the frame stands at its own place of the payload as `0xF` or `0x0`. -/
def Obligations.UnpkfKeepsEveryPixel : Prop :=
  ∀ s : State, s.cfg.configOK = true → s.fi < s.cfg.n →
    ∃ t, exec .unpkf s = .next t ∧
      ∀ x < s.cfg.w, ∀ y < s.cfg.h, ∃ bit, packedPixel s.cfg s.fi x y = some bit ∧
        payloadPixel t x y = some (rep4 bit)

/-- 40_unpacker.md section 2: the frame of UNPKF. In any configuration, where it answers a next state it has written
`BUF[1 .. 4L]` and `LEN` only. -/
def Obligations.UnpkfFrame : Prop :=
  ∀ s t : State, exec .unpkf s = .next t →
    t = { s with buf := t.buf, len := t.len } ∧
      ∀ a, (a < 1 ∨ 1 + 4 * s.cfg.l ≤ a) → t.bufRead a = s.bufRead a ∧ t.bufWritten a = s.bufWritten a

/-- 40_unpacker.md section 3: ZFILL completes in every state; `BUF[1 .. CAP-1]` is `0x00`, `LEN` is `CAP`, and `BUF[0]`
and every other element stay. -/
def Obligations.ZfillZeroesThePayload : Prop :=
  ∀ s : State, ∃ t, exec .zfill s = .next t ∧ t = { s with buf := t.buf, len := s.cfg.cap } ∧
    (∀ a < s.cfg.cap, 1 ≤ a → t.bufWritten a = true ∧ t.bufRead a = some 0x00) ∧
    ∀ a, (a < 1 ∨ s.cfg.cap ≤ a) → t.bufRead a = s.bufRead a ∧ t.bufWritten a = s.bufWritten a

/-! ### The sequencer -/

/-- 42_sequencer.md section 4 (the spec's decision D3 that START is a step): with at least one frame START enters
`Streaming` at frame 0 and changes nothing else. -/
def Obligations.StartEntersStreaming : Prop :=
  ∀ s : State, 1 ≤ s.cfg.n → exec .start s = .next { s with fi := 0, st := .streaming, ph := .unpack }

/-- R163: phase `P_LED` selects LEDT; it complements `LED`, emits `Led` with the new level, goes to `P_NEXT`, and changes nothing else. -/
def Obligations.LedtToggles : Prop :=
  (∀ c : Cfg, selectOp c .led = some .ledt) ∧
  ∀ s : State, exec .ledt s = .next { s with
    led := s.led ^^^ 1, out := s.out ++ [.led (s.led ^^^ 1)], ph := .next } ∧ s.led ^^^ 1 ≠ s.led

/-- R164: phase `P_NEXT` selects NEXT; it advances `FI` modulo `N`, wrapping from `N - 1` to 0, goes to `P_UNPACK`, and changes nothing else. -/
def Obligations.NextAdvancesModuloN : Prop :=
  (∀ c : Cfg, selectOp c .next = some .next) ∧
  ∀ s : State, 1 ≤ s.cfg.n →
    exec .next s = .next { s with fi := (s.fi + 1) % s.cfg.n, ph := .unpack } ∧
      (s.fi + 1 = s.cfg.n → (s.fi + 1) % s.cfg.n = 0) ∧ (s.fi + 1 < s.cfg.n → (s.fi + 1) % s.cfg.n = s.fi + 1)

/-- 42_sequencer.md sections 4 and 7, 60_exceptions.md section 3 (log entry 10): with no frames START is not attempted
and `mod N` has no value: both stop by name. -/
def Obligations.EmptySequenceStops : Prop :=
  ∀ s : State, s.cfg.n = 0 → exec .start s = .fault .emptySequence ∧ exec .next s = .fault .emptySequence

/-- 30_encoding.md section 5 (the spec's decision D3): the operation, with its operands from `Cfg`, that each phase
selects; the error phase selects none. -/
def Obligations.PhaseSelectsItsOperation : Prop :=
  ∀ c : Cfg,
    selectOp c .pwron = some .pwron ∧ selectOp c .remap = some (.remap c.remapArg) ∧
    selectOp c .clrCol = some (.colwin c.panelColStart c.panelColEnd) ∧
    selectOp c .clrRow = some (.rowwin c.panelRowStart c.panelRowEnd) ∧
    selectOp c .clrFill = some .zfill ∧ selectOp c .clrSend = some .wdata ∧
    selectOp c .winCol = some (.colwin c.colStart c.colEnd) ∧ selectOp c .winRow = some (.rowwin c.rowStart c.rowEnd) ∧
    selectOp c .start = some .start ∧ selectOp c .unpack = some .unpkf ∧ selectOp c .send = some .wdata ∧
    selectOp c .led = some .ledt ∧ selectOp c .next = some .next ∧ selectOp c .cfgErr = none

/-- 42_sequencer.md section 1 (the spec's decision D3): with no reset pending a step is the operation the phase selects,
then the phase's own writes; a stop of the operation is a stop of the step. -/
def Obligations.StepRunsTheSelectedOperation : Prop :=
  ∀ (s : State) (i : Instr), s.rst = false → selectOp s.cfg s.ph = some i →
    (∀ t, exec i s = .next t → step s = .next (finishPhase s.ph t)) ∧
    (∀ f, exec i s = .fault f → step s = .fault f) ∧ (∀ q, exec i s = .refused q → step s = .refused q)

/-- 30_encoding.md section 5: the operation a phase selects is the one its phase code decodes to. -/
def Obligations.DecodedPhaseIsTheOperationRun : Prop :=
  ∀ (c : Cfg) (p : Phase) (i : Instr),
    decode c (.phaseCode p.code) = .ok (Request.mk i []) ↔ selectOp c p = some i

/-- 30_encoding.md sections 2 and 6: every transaction a step emits goes to the configured device and reads back as
the operation the phase selected; an operation that is none of the five framer operations emits none. -/
def Obligations.EmittedBytesDecodeBack : Prop :=
  ∀ s t : State, s.cfg.opcodesDistinct = true → s.rst = false → step s = .next t →
    ∃ evs, t.out = s.out ++ evs ∧ ∀ addr bytes r, Event.bus addr bytes r ∈ evs →
      addr = s.cfg.devAddr ∧
      ∃ q, decode s.cfg (.transaction bytes) = .ok q ∧ selectOp s.cfg s.ph = some q.op

/-- 42_sequencer.md section 1, the phase graph (the spec's decision D3): a step goes along an edge of the graph. -/
def Obligations.StepFollowsThePhaseGraph : Prop :=
  ∀ s t : State, s.rst = false → step s = .next t → successor s.cfg s.cc s.ph = some t.ph

/-- 42_sequencer.md sections 2 to 5: what a step does to `ST`, `CC` and `FI`: each is written in the phases the rules
name, with the values they name, and in no other. -/
def Obligations.StepWritesProtocolAndCounters : Prop :=
  ∀ s t : State, s.rst = false → step s = .next t →
    t.st = (match s.ph with
      | .remap => .poweredOn
      | .winRow => .windowConfigured
      | .start => .streaming
      | _ => s.st) ∧
    t.cc = (match s.ph with
      | .clrFill => 0
      | .clrSend => s.cc + 1
      | _ => s.cc) ∧
    t.fi = (match s.ph with
      | .start => 0
      | .next => (s.fi + 1) % s.cfg.n
      | _ => s.fi)

/-- 42_sequencer.md section 6 and 60_exceptions.md section 3 (the spec's decision D15): in `P_CFGERR` there is no step
until a reset: the machine is stuck under the name of the configuration error. -/
def Obligations.ConfigErrorHasNoStep : Prop :=
  ∀ s : State, s.rst = false → s.ph = .cfgErr → step s = .fault .configError

/-- 70_reset_and_hazards.md section 1 (the spec's decisions D14 and D24; log entries 5, 6, 7): a pending reset, in any
state and any phase, replaces the state by the reset state of the same configuration; no offset of `BUF` is then
written, each holds a byte that the reset draws, and `LED` is what the reset draws (log entries 6, 7: of the values drawn
nothing is said). -/
def Obligations.ResetReplacesTheState : Prop :=
  ∀ s : State, s.rst = true →
    ∃ t, step s = .next t ∧ t.cfg = s.cfg ∧ t.st = .uninitialized ∧
      t.ph = (if s.cfg.configOK then .pwron else .cfgErr) ∧ t.fi = 0 ∧ t.cc = 0 ∧ t.len = 1 ∧
      t.winc = none ∧ t.winr = none ∧ t.out = [] ∧ t.rst = false ∧
      ∀ a, t.bufWritten a = false ∧ ((t.bufRead a).isSome = true ↔ a < s.cfg.cap)

/-- 10_state.md section 7 (the spec's decision D14): the state right after reset, for every configuration, and
`State.reset` is such a state; of the bytes of `BUF` and of `LED` the table gives no value and none is said here, but
that `BUF` holds `CAP` bytes, none written. -/
def Obligations.ResetStateIsTheTables : Prop :=
  (∀ (c : Cfg) (k d : Nat) (q : List BusAnswer),
    (State.resetOf c k d q).cfg = c ∧ (State.resetOf c k d q).st = .uninitialized ∧
      (State.resetOf c k d q).ph = (if c.configOK then .pwron else .cfgErr) ∧
      (State.resetOf c k d q).fi = 0 ∧ (State.resetOf c k d q).cc = 0 ∧ (State.resetOf c k d q).len = 1 ∧
      (State.resetOf c k d q).winc = none ∧ (State.resetOf c k d q).winr = none ∧
      (State.resetOf c k d q).out = [] ∧
      ∀ a, (State.resetOf c k d q).bufWritten a = false ∧
        (((State.resetOf c k d q).bufRead a).isSome = true ↔ a < c.cap)) ∧
  ∃ (c : Cfg) (k d : Nat) (q : List BusAnswer), State.reset = State.resetOf c k d q

/-- 00_scope.md section 4 and 10_state.md section 8: no step, a reset among them, writes a field of `Cfg`, and so none
writes `FROM`. -/
def Obligations.StepKeepsConfiguration : Prop :=
  ∀ s t : State, step s = .next t → t.cfg = s.cfg ∧ ∀ a, t.cfg.frm.read a = s.cfg.frm.read a

/-- 10_state.md section 5: between resets the trace only grows, by at most two events a step. -/
def Obligations.TraceOnlyGrows : Prop :=
  ∀ s t : State, s.rst = false → step s = .next t → ∃ evs, t.out = s.out ++ evs ∧ evs.length ≤ 2

/-- 10_state.md section 3 (R27, the spec's decision D12) and 20_memory.md section 1: in every state `BUF` is exactly `CAP`
bytes: each offset below `CAP` holds a byte and no other offset does; a byte that is not written holds what the last
reset drew (log entry 7: of that value nothing is said), so between resets it does not change until it is written. -/
def Obligations.BufferIsCapBytes : Prop :=
  (∀ (s : State) (a : Nat), (s.bufRead a).isSome = true ↔ a < s.cfg.cap) ∧
  ∀ (s t : State) (a : Nat), s.rst = false → step s = .next t → t.bufWritten a = false →
    s.bufWritten a = false ∧ t.bufRead a = s.bufRead a

/-! ### Invariants -/

/-- 10_state.md sections 7 and 8: the reset state of every configuration meets the invariant, `State.reset` among
them. -/
def Obligations.ResetMeetsTheInvariant : Prop :=
  (∀ (c : Cfg) (k d : Nat) (q : List BusAnswer), (State.resetOf c k d q).Inv) ∧ State.reset.Inv

/-- 10_state.md section 8 (the inference marked in R36, with R136 and R157): every step, a reset among them, keeps the
invariant. -/
def Obligations.StepKeepsTheInvariant : Prop :=
  ∀ s t : State, s.Inv → step s = .next t → t.Inv

/-- 42_sequencer.md section 7 (R168): in a state of the invariant outside `P_CFGERR` the machine steps, if the bus
returns from the write the step may make (the premise of R236). -/
def Obligations.MachineNeverHalts : Prop :=
  ∀ (s : State) (r : BusResult), s.Inv → s.ph ≠ .cfgErr → s.nextAnswer = .returns r → ∃ t, step s = .next t

/-- 42_sequencer.md section 7 and 20_memory.md section 5 (R66, R168): in a state of the invariant nothing is refused,
and the machine stops only in `P_CFGERR`, with a configuration that fails R10, or on a bus write that never returns. -/
def Obligations.OnlyTheTwoNamedStops : Prop :=
  ∀ s : State, s.Inv →
    (∀ q, step s ≠ .refused q) ∧
    ∀ f, step s = .fault f →
      (f = .configError ∧ s.ph = .cfgErr ∧ s.cfg.configOK = false) ∨ (f = .busNeverReturns ∧ s.nextAnswer = .hangs)

/-- 20_memory.md section 1 (that no offset at or above `CAP` is written) and the model's choice of log entry 21 (that
memory is a list of cells with strictly rising addresses): in any state, a step keeps the canonical form of the cells of
`BUF` and keeps them below `CAP`. -/
def Obligations.StepKeepsBufferCanonical : Prop :=
  ∀ s t : State, step s = .next t →
    (s.buf.wf = true → t.buf.wf = true) ∧ (s.buf.below s.cfg.cap = true → t.buf.below t.cfg.cap = true)

/-- 41_framer.md section 3 (the inference marked in R136): in any state, a step keeps the control-byte invariant. -/
def Obligations.StepKeepsControlBytes : Prop :=
  ∀ s t : State, s.framedOut = true → step s = .next t → t.framedOut = true

/-- 10_state.md section 3 (R22): between resets `ST` never moves back along the chain. -/
def Obligations.ProtocolNeverMovesBack : Prop :=
  ∀ s t : State, s.Inv → s.rst = false → step s = .next t → protoRank s.st ≤ protoRank t.st

/-- 42_sequencer.md section 3 (R159): from `WindowConfigured` on, and until reset, the shadow window is the
animation's, no step changes it, no command transaction is sent, and the protocol stays there. -/
def Obligations.WindowIsNotChangedAgain : Prop :=
  ∀ s t : State, s.Inv → s.rst = false → (s.st = .windowConfigured ∨ s.st = .streaming) → step s = .next t →
    s.winc = some (s.cfg.colStart, s.cfg.colEnd) ∧ s.winr = some (s.cfg.rowStart, s.cfg.rowEnd) ∧
      t.winc = s.winc ∧ t.winr = s.winr ∧ t.st = .streaming ∧
      ∃ evs, t.out = s.out ++ evs ∧ ∀ addr bytes r, Event.bus addr bytes r ∈ evs → bytes.head? = some 0x40

/-- 41_framer.md section 3 (R139) and 10_state.md section 3 (R29): the shadow window and the controller's window as an
observer of the trace reads it agree as long as every write returned `Ok`; every step, a reset among them, keeps
this. -/
def Obligations.ShadowWindowIsTheObservedOne : Prop :=
  ∀ s t : State, s.ShadowTrue → step s = .next t → t.ShadowTrue

/-- The same at reset: nothing is issued and nothing is known. -/
def Obligations.ShadowWindowAtReset : Prop :=
  ∀ (c : Cfg) (k d : Nat) (q : List BusAnswer), (State.resetOf c k d q).ShadowTrue

/-! ### Runs -/

/-- 42_sequencer.md section 7 (the inference marked in R169): one pass of the frame loop from frame `i` sends the whole
expansion of frame `i` in one data transaction, then logs its failure if it failed, then toggles the heartbeat, and
comes back to `P_UNPACK` at frame `i + 1 mod N`. -/
def Obligations.FrameLoopPass : Prop :=
  ∀ (s : State) (r : BusResult) (q : List BusAnswer), s.Inv → s.rst = false → s.ph = .unpack →
    s.busIn = .returns r :: q →
    ∃ t, stepN 4 s = .next t ∧ t.ph = .unpack ∧ t.st = .streaming ∧ t.fi = (s.fi + 1) % s.cfg.n ∧
      t.led = s.led ^^^ 1 ∧ t.len = s.cfg.cap ∧ t.winc = s.winc ∧ t.winr = s.winr ∧ t.busIn = q ∧
      t.out = s.out ++ (dataEvents s.cfg .send (framePayload s.cfg s.fi s.cfg.l 0) r ++ [.led (s.led ^^^ 1)])

/-- 42_sequencer.md section 7 (the inference marked in R167), the cycle property: from frame 0, `N` passes come back to
frame 0 with the window unchanged; the trace has gained exactly the `N` frames in order, each with its heartbeat, and no
command. -/
def Obligations.CycleReturnsToFrameZero : Prop :=
  ∀ (s : State) (rs : List BusResult), s.Inv → s.rst = false → s.ph = .unpack → s.fi = 0 → s.BusReturns rs →
    rs.length = s.cfg.n →
    ∃ t, stepN (4 * s.cfg.n) s = .next t ∧ t.ph = .unpack ∧ t.st = .streaming ∧ t.fi = 0 ∧ t.len = s.cfg.cap ∧
      t.winc = s.winc ∧ t.winr = s.winr ∧ t.led = (if s.cfg.n % 2 = 0 then s.led else s.led ^^^ 1) ∧
      t.out = s.out ++ passEvents s.cfg 0 s.led rs

/-- 42_sequencer.md section 3 (R157; the spec's decision D11): the clear sends exactly `CLEAR_WRITES` data transactions
of `P` zero bytes, a failed one counted like a good one, and goes on to the animation window. -/
def Obligations.ClearSendsExactlyClearWrites : Prop :=
  ∀ (s : State) (rs : List BusResult), s.Inv → s.rst = false → s.ph = .clrFill → s.BusReturns rs →
    rs.length = s.cfg.clearWrites →
    ∃ t, stepN (1 + s.cfg.clearWrites) s = .next t ∧ t.ph = .winCol ∧ t.cc = s.cfg.clearWrites ∧
      t.out = s.out ++ rs.flatMap (dataEvents s.cfg .clrSend (List.replicate s.cfg.p 0x00))

/-- 42_sequencer.md section 3 (R157) and 70_reset_and_hazards.md section 3 (R230): under `ConfigOK` the clear's writes
cover the panel, with fewer than `P` bytes to spare. -/
def Obligations.ClearCoversThePanel : Prop :=
  ∀ c : Cfg, c.configOK = true →
    c.panelPayload ≤ c.clearWrites * c.p ∧ c.clearWrites * c.p < c.panelPayload + c.p

/-- 42_sequencer.md section 7 and 30_encoding.md section 7 (R96, R170): from the reset of a good configuration the
machine runs `INIT; [CLEAR;] SETWIN; START`, whatever the bus results, as long as every write returns. -/
def Obligations.StartupRunsItsSequence : Prop :=
  ∀ (c : Cfg) (k d : Nat) (rs : List BusResult) (q : List BusAnswer), c.configOK = true →
    rs.length = 4 + (if c.clearEn then 2 + c.clearWrites else 0) →
    selectedOps (pseudoStartup c).length (State.resetOf c k d (rs.map BusAnswer.returns ++ q)) = pseudoStartup c

/-- 60_exceptions.md section 2 (the inference marked in R209): bus results do not steer the machine. Two states that
differ at most in bus results take steps to two such states, whatever the bus answers, as long as it returns. -/
def Obligations.BusResultsDoNotSteer : Prop :=
  ∀ (s t s' : State) (r r' : BusResult), s.SameButResults t → s.nextAnswer = .returns r → t.nextAnswer = .returns r' →
    step s = .next s' → ∃ t', step t = .next t' ∧ s'.SameButResults t'

/-! ### Encodings and configuration -/

/-- 60_exceptions.md section 2, 10_state.md section 6 and 41_framer.md section 3 (R193, R34, R139; the spec's decision
D16; log entry 15): what the observer holds known stays true whatever prefix of a failed write arrived, and whatever
opcode bytes are equal: if a view admits the controller's settings, then after any bus event it admits every settings a
possibly received byte sequence could leave. -/
def Obligations.ObserverAdmitsEveryPrefix : Prop :=
  ∀ (c : Cfg) (v w w' : ControllerView) (addr : Nat) (bytes p : List Byte) (r : BusResult),
    v.Admits w → p ∈ possiblyReceived bytes r → CouldLeave c w p w' → (observe c v (.bus addr bytes r)).Admits w'

/-- 30_encoding.md sections 2, 5 and 6 (the inference marked in R93; phase codes by D3): for every row and every operand, the
decoder gives back the well-formed request that was encoded, whenever the two window opcodes differ. -/
def Obligations.DecodeEncodeRoundTrip : Prop :=
  ∀ (c : Cfg) (r : Request) (e : Encoding), c.opcodesDistinct = true → r.wf c = true → encode c r = some e →
    decode c e = .ok r

/-- 30_encoding.md section 6: a transaction the decoder reads is the encoding of what it reads: no byte is ignored. -/
def Obligations.DecodedTransactionEncodesBack : Prop :=
  ∀ (c : Cfg) (t : List Byte) (r : Request), decode c (.transaction t) = .ok r →
    encode c r = some (.transaction t)

/-- 30_encoding.md section 6: the decoder rejects, by name, an empty transaction, every other control byte, a data
transaction with no payload, and a command of a length no format has. -/
def Obligations.DecoderRejectsByName : Prop :=
  ∀ c : Cfg,
    decode c (.transaction []) = .error .emptyTransaction ∧
    (∀ (b : Byte) (rest : List Byte), b ≠ 0x00 → b ≠ 0x40 →
      decode c (.transaction (b :: rest)) = .error (.badControl b)) ∧
    decode c (.transaction [0x40]) = .error .dataTooShort ∧
    decode c (.transaction [0x00]) = .error .badCommandLength ∧
    ∀ rest : List Byte, 4 ≤ rest.length → decode c (.transaction (0x00 :: rest)) = .error .badCommandLength

/-- 30_encoding.md section 5 (the spec's decision D3): the phase codes and the protocol codes are read back; codes 13
and 14 are unused. -/
def Obligations.PhaseCodesAreReadBack : Prop :=
  (∀ p : Phase, Phase.ofCode p.code = some p) ∧
  (∀ (k : BitVec 4) (p : Phase), Phase.ofCode k = some p → p.code = k) ∧
  Phase.ofCode 13 = none ∧ Phase.ofCode 14 = none ∧
  (∀ p : Proto, Proto.ofCode p.code = p) ∧ ∀ k : BitVec 2, (Proto.ofCode k).code = k

/-- 95_test_vectors.md section 3.2 and 30_encoding.md sections 2 and 5: words written out from the formats, with the
opcode bytes of the probe configuration, decode to the operations they stand for. -/
def Obligations.KnownWordsDecode : Prop :=
  decode Cfg.probe (.transaction [0x00, 0xAF]) = .ok (Request.mk .pwron []) ∧
  decode Cfg.probe (.transaction [0x00, 0xA0, 0x51]) = .ok (Request.mk (.remap 0x51) []) ∧
  decode Cfg.probe (.transaction [0x00, 0x15, 0x00, 0x13]) = .ok (Request.mk (.colwin 0 19) []) ∧
  decode Cfg.probe (.transaction [0x00, 0x75, 0x00, 0x29]) = .ok (Request.mk (.rowwin 0 41) []) ∧
  decode Cfg.probe (.transaction [0x40, 0xF0, 0xFF, 0x00, 0x00]) =
    .ok (Request.mk .wdata [0xF0, 0xFF, 0x00, 0x00]) ∧
  decode Cfg.probe (.phaseCode 0b1001) = .ok (Request.mk .unpkf [])

/-- 00_scope.md section 4 (the inference marked in R11): with at least one row, condition (c) of `ConfigOK` holds exactly when the
width is a multiple of 8. -/
def Obligations.LengthsMatchIffWidthIsMultipleOfEight : Prop :=
  ∀ c : Cfg, 1 ≤ c.h → (c.lengthsMatch = true ↔ c.w % 8 = 0)

/-- 60_exceptions.md section 2 (R193; the spec's decision D16) and 10_state.md section 6: after `Ok` the controller has
the whole transaction; after `Err` any prefix of it, and nothing else, is possible. -/
def Obligations.FailedWriteLeavesAPrefix : Prop :=
  ∀ (bytes p : List Byte) (e : BusError),
    (p ∈ possiblyReceived bytes .ok ↔ p = bytes) ∧ (p ∈ possiblyReceived bytes (.err e) ↔ p <+: bytes)
end

