-- ==== Sys2Proof/Laws/Memory.lean ====
section
/-! SUPPORT. Laws/Memory.lean: reading after writing, the canonical form under every memory operation, and what a run
of bytes reads as. -/
namespace Sys2Proof

@[simp] theorem Memory.read_nil (a : Nat) : Memory.read [] a = none := rfl

@[simp] theorem Memory.read_write_same (m : Memory) (a : Nat) (b : Byte) : (m.write a b).read a = some b := by
  induction m with
  | nil => simp [Memory.write, Memory.read]
  | cons c m ih =>
    obtain ⟨x, v⟩ := c
    simp only [Memory.write]
    split
    · simp [Memory.read]
    · split
      · simp [Memory.read]
      · rename_i h1 h2
        simp [Memory.read, Ne.symm h2, ih]

theorem Memory.read_write_other (m : Memory) {a a' : Nat} (b : Byte) (h : a' ≠ a) :
    (m.write a b).read a' = m.read a' := by
  induction m with
  | nil => simp [Memory.write, Memory.read, Ne.symm h]
  | cons c m ih =>
    obtain ⟨x, v⟩ := c
    simp only [Memory.write]
    split
    · simp [Memory.read, Ne.symm h]
    · split
      · rename_i h2
        subst h2
        simp [Memory.read, Ne.symm h]
      · simp [Memory.read, ih]

theorem Memory.risesAbove_write {m : Memory} {lo a : Nat} (b : Byte) (hm : Memory.risesAbove lo m = true)
    (h : lo < a) : Memory.risesAbove lo (m.write a b) = true := by
  induction m generalizing lo with
  | nil => simp [Memory.write, Memory.risesAbove, h]
  | cons c m ih =>
    obtain ⟨x, v⟩ := c
    simp only [Memory.risesAbove, Bool.and_eq_true, decide_eq_true_eq] at hm
    simp only [Memory.write]
    split
    · simp_all [Memory.risesAbove]
    · split
      · simp_all [Memory.risesAbove]
      · have : x < a := by omega
        simp [Memory.risesAbove, hm.1, ih hm.2 this]

/-- A write keeps the canonical form. -/
theorem Memory.wf_write {m : Memory} (a : Nat) (b : Byte) (hm : m.wf = true) : (m.write a b).wf = true := by
  cases m with
  | nil => simp [Memory.write, Memory.wf, Memory.risesAbove]
  | cons c m =>
    obtain ⟨x, v⟩ := c
    simp only [Memory.wf] at hm
    simp only [Memory.write]
    split
    · simp_all [Memory.wf, Memory.risesAbove]
    · split
      · simp_all [Memory.wf]
      · have : x < a := by omega
        simp [Memory.wf, Memory.risesAbove_write b hm this]

/-- A write below the bound keeps every address below it. -/
theorem Memory.below_write {m : Memory} {bound a : Nat} (b : Byte) (hm : m.below bound = true) (h : a < bound) :
    (m.write a b).below bound = true := by
  induction m with
  | nil => simp [Memory.write, Memory.below, h]
  | cons c m ih =>
    obtain ⟨x, v⟩ := c
    simp only [Memory.below, List.all_cons, Bool.and_eq_true, decide_eq_true_eq] at hm
    have ih' := ih (by simpa [Memory.below] using hm.2)
    simp only [Memory.below, List.all_eq_true, decide_eq_true_eq] at ih'
    simp only [Memory.write]
    split
    · simp [Memory.below, h, hm.1]; simpa using hm.2
    · split
      · simp [Memory.below, h]; simpa using hm.2
      · simp [Memory.below, hm.1]; simpa using ih'

/-- An address that reads as a byte is listed, so it is below the bound of the listed addresses. -/
theorem Memory.lt_of_read {m : Memory} {bound a : Nat} {b : Byte} (hm : m.below bound = true)
    (h : m.read a = some b) : a < bound := by
  induction m with
  | nil => simp at h
  | cons c m ih =>
    obtain ⟨x, v⟩ := c
    simp only [Memory.below, List.all_cons, Bool.and_eq_true, decide_eq_true_eq] at hm
    simp only [Memory.read] at h
    split at h
    · rename_i hx; omega
    · exact ih (by simpa [Memory.below] using hm.2) h

/-- An address among the listed ones reads as a byte. -/
theorem Memory.read_of_listed {m : Memory} {a : Nat} (h : a ∈ m.map (fun x => x.1)) : (m.read a).isSome = true := by
  induction m with
  | nil => simp at h
  | cons c m ih =>
    obtain ⟨x, v⟩ := c
    simp only [Memory.read]
    split
    · rfl
    · rename_i hx
      refine ih ?_
      simpa [Ne.symm hx] using h

theorem Memory.wf_nil : Memory.wf [] = true := rfl

theorem Memory.wf_ofBytes (a : Nat) (bs : List Byte) : (Memory.ofBytes a bs).wf = true := by
  have rises : ∀ (bs : List Byte) (a : Nat), Memory.risesAbove a (Memory.ofBytes (a + 1) bs) = true := by
    intro bs
    induction bs with
    | nil => intro a; rfl
    | cons b bs ih => intro a; simp [Memory.ofBytes, Memory.risesAbove, ih]
  cases bs with
  | nil => rfl
  | cons b bs => exact rises bs a

end Sys2Proof
end

