-- ==== Sys2Proof/Laws/State.lean ====
section
/-! SUPPORT. Laws/State.lean: what each named update of the state leaves in each field, one lemma a field, so that no
proof unfolds a record update; and the fields of a reset state. -/
namespace Sys2Proof.Machine

@[simp] theorem State.setSt_cfg (v : Proto) (s : State) : (s.setSt v).cfg = s.cfg := rfl
@[simp] theorem State.setSt_st (v : Proto) (s : State) : (s.setSt v).st = v := rfl
@[simp] theorem State.setSt_ph (v : Proto) (s : State) : (s.setSt v).ph = s.ph := rfl
@[simp] theorem State.setSt_fi (v : Proto) (s : State) : (s.setSt v).fi = s.fi := rfl
@[simp] theorem State.setSt_cc (v : Proto) (s : State) : (s.setSt v).cc = s.cc := rfl
@[simp] theorem State.setSt_len (v : Proto) (s : State) : (s.setSt v).len = s.len := rfl
@[simp] theorem State.setSt_buf (v : Proto) (s : State) : (s.setSt v).buf = s.buf := rfl
@[simp] theorem State.setSt_led (v : Proto) (s : State) : (s.setSt v).led = s.led := rfl
@[simp] theorem State.setSt_winc (v : Proto) (s : State) : (s.setSt v).winc = s.winc := rfl
@[simp] theorem State.setSt_winr (v : Proto) (s : State) : (s.setSt v).winr = s.winr := rfl
@[simp] theorem State.setSt_out (v : Proto) (s : State) : (s.setSt v).out = s.out := rfl
@[simp] theorem State.setSt_rst (v : Proto) (s : State) : (s.setSt v).rst = s.rst := rfl
@[simp] theorem State.setSt_busIn (v : Proto) (s : State) : (s.setSt v).busIn = s.busIn := rfl
@[simp] theorem State.setSt_drawn (v : Proto) (s : State) : (s.setSt v).drawn = s.drawn := rfl
@[simp] theorem State.setSt_resets (v : Proto) (s : State) : (s.setSt v).resets = s.resets := rfl
@[simp] theorem State.setSt_shown (v : Proto) (s : State) : (s.setSt v).shown = s.shown := rfl

@[simp] theorem State.setPh_cfg (v : Phase) (s : State) : (s.setPh v).cfg = s.cfg := rfl
@[simp] theorem State.setPh_st (v : Phase) (s : State) : (s.setPh v).st = s.st := rfl
@[simp] theorem State.setPh_ph (v : Phase) (s : State) : (s.setPh v).ph = v := rfl
@[simp] theorem State.setPh_fi (v : Phase) (s : State) : (s.setPh v).fi = s.fi := rfl
@[simp] theorem State.setPh_cc (v : Phase) (s : State) : (s.setPh v).cc = s.cc := rfl
@[simp] theorem State.setPh_len (v : Phase) (s : State) : (s.setPh v).len = s.len := rfl
@[simp] theorem State.setPh_buf (v : Phase) (s : State) : (s.setPh v).buf = s.buf := rfl
@[simp] theorem State.setPh_led (v : Phase) (s : State) : (s.setPh v).led = s.led := rfl
@[simp] theorem State.setPh_winc (v : Phase) (s : State) : (s.setPh v).winc = s.winc := rfl
@[simp] theorem State.setPh_winr (v : Phase) (s : State) : (s.setPh v).winr = s.winr := rfl
@[simp] theorem State.setPh_out (v : Phase) (s : State) : (s.setPh v).out = s.out := rfl
@[simp] theorem State.setPh_rst (v : Phase) (s : State) : (s.setPh v).rst = s.rst := rfl
@[simp] theorem State.setPh_busIn (v : Phase) (s : State) : (s.setPh v).busIn = s.busIn := rfl
@[simp] theorem State.setPh_drawn (v : Phase) (s : State) : (s.setPh v).drawn = s.drawn := rfl
@[simp] theorem State.setPh_resets (v : Phase) (s : State) : (s.setPh v).resets = s.resets := rfl
@[simp] theorem State.setPh_shown (v : Phase) (s : State) : (s.setPh v).shown = s.shown := rfl

@[simp] theorem State.setFi_cfg (v : Nat) (s : State) : (s.setFi v).cfg = s.cfg := rfl
@[simp] theorem State.setFi_st (v : Nat) (s : State) : (s.setFi v).st = s.st := rfl
@[simp] theorem State.setFi_ph (v : Nat) (s : State) : (s.setFi v).ph = s.ph := rfl
@[simp] theorem State.setFi_fi (v : Nat) (s : State) : (s.setFi v).fi = v := rfl
@[simp] theorem State.setFi_cc (v : Nat) (s : State) : (s.setFi v).cc = s.cc := rfl
@[simp] theorem State.setFi_len (v : Nat) (s : State) : (s.setFi v).len = s.len := rfl
@[simp] theorem State.setFi_buf (v : Nat) (s : State) : (s.setFi v).buf = s.buf := rfl
@[simp] theorem State.setFi_led (v : Nat) (s : State) : (s.setFi v).led = s.led := rfl
@[simp] theorem State.setFi_winc (v : Nat) (s : State) : (s.setFi v).winc = s.winc := rfl
@[simp] theorem State.setFi_winr (v : Nat) (s : State) : (s.setFi v).winr = s.winr := rfl
@[simp] theorem State.setFi_out (v : Nat) (s : State) : (s.setFi v).out = s.out := rfl
@[simp] theorem State.setFi_rst (v : Nat) (s : State) : (s.setFi v).rst = s.rst := rfl
@[simp] theorem State.setFi_busIn (v : Nat) (s : State) : (s.setFi v).busIn = s.busIn := rfl
@[simp] theorem State.setFi_drawn (v : Nat) (s : State) : (s.setFi v).drawn = s.drawn := rfl
@[simp] theorem State.setFi_resets (v : Nat) (s : State) : (s.setFi v).resets = s.resets := rfl
@[simp] theorem State.setFi_shown (v : Nat) (s : State) : (s.setFi v).shown = s.shown := rfl

@[simp] theorem State.setCc_cfg (v : Nat) (s : State) : (s.setCc v).cfg = s.cfg := rfl
@[simp] theorem State.setCc_st (v : Nat) (s : State) : (s.setCc v).st = s.st := rfl
@[simp] theorem State.setCc_ph (v : Nat) (s : State) : (s.setCc v).ph = s.ph := rfl
@[simp] theorem State.setCc_fi (v : Nat) (s : State) : (s.setCc v).fi = s.fi := rfl
@[simp] theorem State.setCc_cc (v : Nat) (s : State) : (s.setCc v).cc = v := rfl
@[simp] theorem State.setCc_len (v : Nat) (s : State) : (s.setCc v).len = s.len := rfl
@[simp] theorem State.setCc_buf (v : Nat) (s : State) : (s.setCc v).buf = s.buf := rfl
@[simp] theorem State.setCc_led (v : Nat) (s : State) : (s.setCc v).led = s.led := rfl
@[simp] theorem State.setCc_winc (v : Nat) (s : State) : (s.setCc v).winc = s.winc := rfl
@[simp] theorem State.setCc_winr (v : Nat) (s : State) : (s.setCc v).winr = s.winr := rfl
@[simp] theorem State.setCc_out (v : Nat) (s : State) : (s.setCc v).out = s.out := rfl
@[simp] theorem State.setCc_rst (v : Nat) (s : State) : (s.setCc v).rst = s.rst := rfl
@[simp] theorem State.setCc_busIn (v : Nat) (s : State) : (s.setCc v).busIn = s.busIn := rfl
@[simp] theorem State.setCc_drawn (v : Nat) (s : State) : (s.setCc v).drawn = s.drawn := rfl
@[simp] theorem State.setCc_resets (v : Nat) (s : State) : (s.setCc v).resets = s.resets := rfl
@[simp] theorem State.setCc_shown (v : Nat) (s : State) : (s.setCc v).shown = s.shown := rfl

@[simp] theorem State.setLen_cfg (v : Nat) (s : State) : (s.setLen v).cfg = s.cfg := rfl
@[simp] theorem State.setLen_st (v : Nat) (s : State) : (s.setLen v).st = s.st := rfl
@[simp] theorem State.setLen_ph (v : Nat) (s : State) : (s.setLen v).ph = s.ph := rfl
@[simp] theorem State.setLen_fi (v : Nat) (s : State) : (s.setLen v).fi = s.fi := rfl
@[simp] theorem State.setLen_cc (v : Nat) (s : State) : (s.setLen v).cc = s.cc := rfl
@[simp] theorem State.setLen_len (v : Nat) (s : State) : (s.setLen v).len = v := rfl
@[simp] theorem State.setLen_buf (v : Nat) (s : State) : (s.setLen v).buf = s.buf := rfl
@[simp] theorem State.setLen_led (v : Nat) (s : State) : (s.setLen v).led = s.led := rfl
@[simp] theorem State.setLen_winc (v : Nat) (s : State) : (s.setLen v).winc = s.winc := rfl
@[simp] theorem State.setLen_winr (v : Nat) (s : State) : (s.setLen v).winr = s.winr := rfl
@[simp] theorem State.setLen_out (v : Nat) (s : State) : (s.setLen v).out = s.out := rfl
@[simp] theorem State.setLen_rst (v : Nat) (s : State) : (s.setLen v).rst = s.rst := rfl
@[simp] theorem State.setLen_busIn (v : Nat) (s : State) : (s.setLen v).busIn = s.busIn := rfl
@[simp] theorem State.setLen_drawn (v : Nat) (s : State) : (s.setLen v).drawn = s.drawn := rfl
@[simp] theorem State.setLen_resets (v : Nat) (s : State) : (s.setLen v).resets = s.resets := rfl
@[simp] theorem State.setLen_shown (v : Nat) (s : State) : (s.setLen v).shown = s.shown := rfl

@[simp] theorem State.setBuf_cfg (v : Memory) (s : State) : (s.setBuf v).cfg = s.cfg := rfl
@[simp] theorem State.setBuf_st (v : Memory) (s : State) : (s.setBuf v).st = s.st := rfl
@[simp] theorem State.setBuf_ph (v : Memory) (s : State) : (s.setBuf v).ph = s.ph := rfl
@[simp] theorem State.setBuf_fi (v : Memory) (s : State) : (s.setBuf v).fi = s.fi := rfl
@[simp] theorem State.setBuf_cc (v : Memory) (s : State) : (s.setBuf v).cc = s.cc := rfl
@[simp] theorem State.setBuf_len (v : Memory) (s : State) : (s.setBuf v).len = s.len := rfl
@[simp] theorem State.setBuf_buf (v : Memory) (s : State) : (s.setBuf v).buf = v := rfl
@[simp] theorem State.setBuf_led (v : Memory) (s : State) : (s.setBuf v).led = s.led := rfl
@[simp] theorem State.setBuf_winc (v : Memory) (s : State) : (s.setBuf v).winc = s.winc := rfl
@[simp] theorem State.setBuf_winr (v : Memory) (s : State) : (s.setBuf v).winr = s.winr := rfl
@[simp] theorem State.setBuf_out (v : Memory) (s : State) : (s.setBuf v).out = s.out := rfl
@[simp] theorem State.setBuf_rst (v : Memory) (s : State) : (s.setBuf v).rst = s.rst := rfl
@[simp] theorem State.setBuf_busIn (v : Memory) (s : State) : (s.setBuf v).busIn = s.busIn := rfl
@[simp] theorem State.setBuf_drawn (v : Memory) (s : State) : (s.setBuf v).drawn = s.drawn := rfl
@[simp] theorem State.setBuf_resets (v : Memory) (s : State) : (s.setBuf v).resets = s.resets := rfl
@[simp] theorem State.setBuf_shown (v : Memory) (s : State) : (s.setBuf v).shown = s.shown := rfl

@[simp] theorem State.setLed_cfg (v : BitVec 1) (s : State) : (s.setLed v).cfg = s.cfg := rfl
@[simp] theorem State.setLed_st (v : BitVec 1) (s : State) : (s.setLed v).st = s.st := rfl
@[simp] theorem State.setLed_ph (v : BitVec 1) (s : State) : (s.setLed v).ph = s.ph := rfl
@[simp] theorem State.setLed_fi (v : BitVec 1) (s : State) : (s.setLed v).fi = s.fi := rfl
@[simp] theorem State.setLed_cc (v : BitVec 1) (s : State) : (s.setLed v).cc = s.cc := rfl
@[simp] theorem State.setLed_len (v : BitVec 1) (s : State) : (s.setLed v).len = s.len := rfl
@[simp] theorem State.setLed_buf (v : BitVec 1) (s : State) : (s.setLed v).buf = s.buf := rfl
@[simp] theorem State.setLed_led (v : BitVec 1) (s : State) : (s.setLed v).led = v := rfl
@[simp] theorem State.setLed_winc (v : BitVec 1) (s : State) : (s.setLed v).winc = s.winc := rfl
@[simp] theorem State.setLed_winr (v : BitVec 1) (s : State) : (s.setLed v).winr = s.winr := rfl
@[simp] theorem State.setLed_out (v : BitVec 1) (s : State) : (s.setLed v).out = s.out := rfl
@[simp] theorem State.setLed_rst (v : BitVec 1) (s : State) : (s.setLed v).rst = s.rst := rfl
@[simp] theorem State.setLed_busIn (v : BitVec 1) (s : State) : (s.setLed v).busIn = s.busIn := rfl
@[simp] theorem State.setLed_drawn (v : BitVec 1) (s : State) : (s.setLed v).drawn = s.drawn := rfl
@[simp] theorem State.setLed_resets (v : BitVec 1) (s : State) : (s.setLed v).resets = s.resets := rfl
@[simp] theorem State.setLed_shown (v : BitVec 1) (s : State) : (s.setLed v).shown = s.shown := rfl

@[simp] theorem State.setWinc_cfg (v : Byte × Byte) (s : State) : (s.setWinc v).cfg = s.cfg := rfl
@[simp] theorem State.setWinc_st (v : Byte × Byte) (s : State) : (s.setWinc v).st = s.st := rfl
@[simp] theorem State.setWinc_ph (v : Byte × Byte) (s : State) : (s.setWinc v).ph = s.ph := rfl
@[simp] theorem State.setWinc_fi (v : Byte × Byte) (s : State) : (s.setWinc v).fi = s.fi := rfl
@[simp] theorem State.setWinc_cc (v : Byte × Byte) (s : State) : (s.setWinc v).cc = s.cc := rfl
@[simp] theorem State.setWinc_len (v : Byte × Byte) (s : State) : (s.setWinc v).len = s.len := rfl
@[simp] theorem State.setWinc_buf (v : Byte × Byte) (s : State) : (s.setWinc v).buf = s.buf := rfl
@[simp] theorem State.setWinc_led (v : Byte × Byte) (s : State) : (s.setWinc v).led = s.led := rfl
@[simp] theorem State.setWinc_winc (v : Byte × Byte) (s : State) : (s.setWinc v).winc = some v := rfl
@[simp] theorem State.setWinc_winr (v : Byte × Byte) (s : State) : (s.setWinc v).winr = s.winr := rfl
@[simp] theorem State.setWinc_out (v : Byte × Byte) (s : State) : (s.setWinc v).out = s.out := rfl
@[simp] theorem State.setWinc_rst (v : Byte × Byte) (s : State) : (s.setWinc v).rst = s.rst := rfl
@[simp] theorem State.setWinc_busIn (v : Byte × Byte) (s : State) : (s.setWinc v).busIn = s.busIn := rfl
@[simp] theorem State.setWinc_drawn (v : Byte × Byte) (s : State) : (s.setWinc v).drawn = s.drawn := rfl
@[simp] theorem State.setWinc_resets (v : Byte × Byte) (s : State) : (s.setWinc v).resets = s.resets := rfl
@[simp] theorem State.setWinc_shown (v : Byte × Byte) (s : State) : (s.setWinc v).shown = s.shown := rfl

@[simp] theorem State.setWinr_cfg (v : Byte × Byte) (s : State) : (s.setWinr v).cfg = s.cfg := rfl
@[simp] theorem State.setWinr_st (v : Byte × Byte) (s : State) : (s.setWinr v).st = s.st := rfl
@[simp] theorem State.setWinr_ph (v : Byte × Byte) (s : State) : (s.setWinr v).ph = s.ph := rfl
@[simp] theorem State.setWinr_fi (v : Byte × Byte) (s : State) : (s.setWinr v).fi = s.fi := rfl
@[simp] theorem State.setWinr_cc (v : Byte × Byte) (s : State) : (s.setWinr v).cc = s.cc := rfl
@[simp] theorem State.setWinr_len (v : Byte × Byte) (s : State) : (s.setWinr v).len = s.len := rfl
@[simp] theorem State.setWinr_buf (v : Byte × Byte) (s : State) : (s.setWinr v).buf = s.buf := rfl
@[simp] theorem State.setWinr_led (v : Byte × Byte) (s : State) : (s.setWinr v).led = s.led := rfl
@[simp] theorem State.setWinr_winc (v : Byte × Byte) (s : State) : (s.setWinr v).winc = s.winc := rfl
@[simp] theorem State.setWinr_winr (v : Byte × Byte) (s : State) : (s.setWinr v).winr = some v := rfl
@[simp] theorem State.setWinr_out (v : Byte × Byte) (s : State) : (s.setWinr v).out = s.out := rfl
@[simp] theorem State.setWinr_rst (v : Byte × Byte) (s : State) : (s.setWinr v).rst = s.rst := rfl
@[simp] theorem State.setWinr_busIn (v : Byte × Byte) (s : State) : (s.setWinr v).busIn = s.busIn := rfl
@[simp] theorem State.setWinr_drawn (v : Byte × Byte) (s : State) : (s.setWinr v).drawn = s.drawn := rfl
@[simp] theorem State.setWinr_resets (v : Byte × Byte) (s : State) : (s.setWinr v).resets = s.resets := rfl
@[simp] theorem State.setWinr_shown (v : Byte × Byte) (s : State) : (s.setWinr v).shown = s.shown := rfl

@[simp] theorem State.emit_cfg (v : Event) (s : State) : (s.emit v).cfg = s.cfg := rfl
@[simp] theorem State.emit_st (v : Event) (s : State) : (s.emit v).st = s.st := rfl
@[simp] theorem State.emit_ph (v : Event) (s : State) : (s.emit v).ph = s.ph := rfl
@[simp] theorem State.emit_fi (v : Event) (s : State) : (s.emit v).fi = s.fi := rfl
@[simp] theorem State.emit_cc (v : Event) (s : State) : (s.emit v).cc = s.cc := rfl
@[simp] theorem State.emit_len (v : Event) (s : State) : (s.emit v).len = s.len := rfl
@[simp] theorem State.emit_buf (v : Event) (s : State) : (s.emit v).buf = s.buf := rfl
@[simp] theorem State.emit_led (v : Event) (s : State) : (s.emit v).led = s.led := rfl
@[simp] theorem State.emit_winc (v : Event) (s : State) : (s.emit v).winc = s.winc := rfl
@[simp] theorem State.emit_winr (v : Event) (s : State) : (s.emit v).winr = s.winr := rfl
@[simp] theorem State.emit_out (v : Event) (s : State) : (s.emit v).out = s.out ++ [v] := rfl
@[simp] theorem State.emit_rst (v : Event) (s : State) : (s.emit v).rst = s.rst := rfl
@[simp] theorem State.emit_busIn (v : Event) (s : State) : (s.emit v).busIn = s.busIn := rfl
@[simp] theorem State.emit_drawn (v : Event) (s : State) : (s.emit v).drawn = s.drawn := rfl
@[simp] theorem State.emit_resets (v : Event) (s : State) : (s.emit v).resets = s.resets := rfl
@[simp] theorem State.emit_shown (v : Event) (s : State) : (s.emit v).shown = s.shown := rfl

@[simp] theorem State.takeAnswer_cfg (s : State) : s.takeAnswer.cfg = s.cfg := rfl
@[simp] theorem State.takeAnswer_st (s : State) : s.takeAnswer.st = s.st := rfl
@[simp] theorem State.takeAnswer_ph (s : State) : s.takeAnswer.ph = s.ph := rfl
@[simp] theorem State.takeAnswer_fi (s : State) : s.takeAnswer.fi = s.fi := rfl
@[simp] theorem State.takeAnswer_cc (s : State) : s.takeAnswer.cc = s.cc := rfl
@[simp] theorem State.takeAnswer_len (s : State) : s.takeAnswer.len = s.len := rfl
@[simp] theorem State.takeAnswer_buf (s : State) : s.takeAnswer.buf = s.buf := rfl
@[simp] theorem State.takeAnswer_led (s : State) : s.takeAnswer.led = s.led := rfl
@[simp] theorem State.takeAnswer_winc (s : State) : s.takeAnswer.winc = s.winc := rfl
@[simp] theorem State.takeAnswer_winr (s : State) : s.takeAnswer.winr = s.winr := rfl
@[simp] theorem State.takeAnswer_out (s : State) : s.takeAnswer.out = s.out := rfl
@[simp] theorem State.takeAnswer_rst (s : State) : s.takeAnswer.rst = s.rst := rfl
@[simp] theorem State.takeAnswer_busIn (s : State) : s.takeAnswer.busIn = s.busIn.tail := rfl
@[simp] theorem State.takeAnswer_drawn (s : State) : s.takeAnswer.drawn = s.drawn + 1 := rfl
@[simp] theorem State.takeAnswer_resets (s : State) : s.takeAnswer.resets = s.resets := rfl
@[simp] theorem State.takeAnswer_shown (s : State) : s.takeAnswer.shown = s.shown := rfl

@[simp] theorem State.setShown_cfg (v : List Byte) (s : State) : (s.setShown v).cfg = s.cfg := rfl
@[simp] theorem State.setShown_st (v : List Byte) (s : State) : (s.setShown v).st = s.st := rfl
@[simp] theorem State.setShown_ph (v : List Byte) (s : State) : (s.setShown v).ph = s.ph := rfl
@[simp] theorem State.setShown_fi (v : List Byte) (s : State) : (s.setShown v).fi = s.fi := rfl
@[simp] theorem State.setShown_cc (v : List Byte) (s : State) : (s.setShown v).cc = s.cc := rfl
@[simp] theorem State.setShown_len (v : List Byte) (s : State) : (s.setShown v).len = s.len := rfl
@[simp] theorem State.setShown_buf (v : List Byte) (s : State) : (s.setShown v).buf = s.buf := rfl
@[simp] theorem State.setShown_led (v : List Byte) (s : State) : (s.setShown v).led = s.led := rfl
@[simp] theorem State.setShown_winc (v : List Byte) (s : State) : (s.setShown v).winc = s.winc := rfl
@[simp] theorem State.setShown_winr (v : List Byte) (s : State) : (s.setShown v).winr = s.winr := rfl
@[simp] theorem State.setShown_out (v : List Byte) (s : State) : (s.setShown v).out = s.out := rfl
@[simp] theorem State.setShown_rst (v : List Byte) (s : State) : (s.setShown v).rst = s.rst := rfl
@[simp] theorem State.setShown_busIn (v : List Byte) (s : State) : (s.setShown v).busIn = s.busIn := rfl
@[simp] theorem State.setShown_drawn (v : List Byte) (s : State) : (s.setShown v).drawn = s.drawn := rfl
@[simp] theorem State.setShown_resets (v : List Byte) (s : State) : (s.setShown v).resets = s.resets := rfl
@[simp] theorem State.setShown_shown (v : List Byte) (s : State) : (s.setShown v).shown = v := rfl

@[simp] theorem State.resetOf_cfg (c : Cfg) (k d : Nat) (q : List BusAnswer) :
    (State.resetOf c k d q).cfg = c := rfl
@[simp] theorem State.resetOf_st (c : Cfg) (k d : Nat) (q : List BusAnswer) :
    (State.resetOf c k d q).st = .uninitialized := rfl
@[simp] theorem State.resetOf_ph (c : Cfg) (k d : Nat) (q : List BusAnswer) :
    (State.resetOf c k d q).ph = if c.configOK then .pwron else .cfgErr := rfl
@[simp] theorem State.resetOf_fi (c : Cfg) (k d : Nat) (q : List BusAnswer) :
    (State.resetOf c k d q).fi = 0 := rfl
@[simp] theorem State.resetOf_cc (c : Cfg) (k d : Nat) (q : List BusAnswer) :
    (State.resetOf c k d q).cc = 0 := rfl
@[simp] theorem State.resetOf_len (c : Cfg) (k d : Nat) (q : List BusAnswer) :
    (State.resetOf c k d q).len = 1 := rfl
@[simp] theorem State.resetOf_buf (c : Cfg) (k d : Nat) (q : List BusAnswer) :
    (State.resetOf c k d q).buf = [] := rfl
@[simp] theorem State.resetOf_led (c : Cfg) (k d : Nat) (q : List BusAnswer) :
    (State.resetOf c k d q).led = Config.ledAtReset k := rfl
@[simp] theorem State.resetOf_winc (c : Cfg) (k d : Nat) (q : List BusAnswer) :
    (State.resetOf c k d q).winc = none := rfl
@[simp] theorem State.resetOf_winr (c : Cfg) (k d : Nat) (q : List BusAnswer) :
    (State.resetOf c k d q).winr = none := rfl
@[simp] theorem State.resetOf_out (c : Cfg) (k d : Nat) (q : List BusAnswer) :
    (State.resetOf c k d q).out = [] := rfl
@[simp] theorem State.resetOf_rst (c : Cfg) (k d : Nat) (q : List BusAnswer) :
    (State.resetOf c k d q).rst = false := rfl
@[simp] theorem State.resetOf_busIn (c : Cfg) (k d : Nat) (q : List BusAnswer) :
    (State.resetOf c k d q).busIn = q := rfl
@[simp] theorem State.resetOf_drawn (c : Cfg) (k d : Nat) (q : List BusAnswer) :
    (State.resetOf c k d q).drawn = d := rfl
@[simp] theorem State.resetOf_resets (c : Cfg) (k d : Nat) (q : List BusAnswer) :
    (State.resetOf c k d q).resets = k := rfl
@[simp] theorem State.resetOf_shown (c : Cfg) (k d : Nat) (q : List BusAnswer) :
    (State.resetOf c k d q).shown = [] := rfl

end Sys2Proof.Machine
end

