-- ==== Sys2Proof/Laws/Ops.lean ====
section
/-! SUPPORT. Laws/Ops.lean: for each shared operation of Machine/Ops.lean, what it can do, said once. -/
namespace Sys2Proof.Machine

@[simp] theorem mapNext_next (f : State → State) (t : State) : mapNext f (.next t) = .next (f t) := rfl
@[simp] theorem mapNext_fault (f : State → State) (r : Fault) : mapNext f (.fault r) = .fault r := rfl
@[simp] theorem mapNext_refused (f : State → State) (r : Refusal) : mapNext f (.refused r) = .refused r := rfl

theorem mapNext_eq_next {f : State → State} {o : Result} {t : State} :
    mapNext f o = .next t ↔ ∃ u, o = .next u ∧ f u = t := by
  cases o <;> simp [mapNext]

theorem mapNext_eq_fault {f : State → State} {o : Result} {r : Fault} : mapNext f o = .fault r ↔ o = .fault r := by
  cases o <;> simp [mapNext]

theorem mapNext_eq_refused {f : State → State} {o : Result} {r : Refusal} :
    mapNext f o = .refused r ↔ o = .refused r := by
  cases o <;> simp [mapNext]

@[simp] theorem nextAnswer_setBuf (m : Memory) (s : State) : (s.setBuf m).nextAnswer = s.nextAnswer := rfl

theorem nextAnswer_cons {s : State} {a : BusAnswer} {q : List BusAnswer} (h : s.busIn = a :: q) :
    s.nextAnswer = a := by simp [State.nextAnswer, h]

/-- A returned bus write appends its events and uses up one answer, and does nothing else (R130, R192). -/
theorem afterWrite_eq (bytes : List Byte) (r : BusResult) (s : State) :
    afterWrite bytes r s =
      { s with out := s.out ++ busEvents s bytes r, busIn := s.busIn.tail, drawn := s.drawn + 1 } := by
  cases r <;> simp [afterWrite, busEvents, raiseBusError, State.emit, State.takeAnswer]

theorem xmit_returns {s : State} {r : BusResult} (bytes : List Byte) (h : s.nextAnswer = .returns r) :
    xmit bytes s = .next (afterWrite bytes r s) := by simp [xmit, h]

theorem xmit_hangs {s : State} (bytes : List Byte) (h : s.nextAnswer = .hangs) :
    xmit bytes s = .fault .busNeverReturns := by simp [xmit, h]

/-- If `xmit` answers a next state, the bus returned and the state is what `afterWrite_eq` says. -/
theorem xmit_eq_next {bytes : List Byte} {s t : State} :
    xmit bytes s = .next t ↔ ∃ r, s.nextAnswer = .returns r ∧ t = afterWrite bytes r s := by
  unfold xmit
  cases s.nextAnswer <;> simp [eq_comm]

/-- `xmit` stops only where the bus never returns, and refuses nothing. -/
theorem xmit_eq_fault {bytes : List Byte} {s : State} {f : Fault} :
    xmit bytes s = .fault f ↔ s.nextAnswer = .hangs ∧ f = .busNeverReturns := by
  unfold xmit
  cases s.nextAnswer <;> simp [eq_comm]

theorem xmit_not_refused (bytes : List Byte) (s : State) (r : Refusal) : xmit bytes s ≠ .refused r := by
  unfold xmit
  cases s.nextAnswer <;> simp

theorem writeBuf_eq_ok {c : Cfg} {a : Nat} {b : Byte} {m m' : Memory} :
    writeBuf c a b m = .ok m' ↔ a < c.cap ∧ m' = m.write a b := by
  unfold writeBuf
  split <;> simp [*, eq_comm]

/-- If `writeRun` answers a memory, the run is inside `BUF`, holds the bytes, and the rest is as before. -/
theorem writeRun_ok {c : Cfg} {a : Nat} {bs : List Byte} {m m' : Memory} (h : writeRun c a bs m = .ok m') :
    (bs ≠ [] → a + bs.length ≤ c.cap) ∧ (∀ j < bs.length, m'.read (a + j) = bs[j]?) ∧
      (∀ x, x < a ∨ a + bs.length ≤ x → m'.read x = m.read x) ∧ (m.wf = true → m'.wf = true) ∧
      (m.below c.cap = true → m'.below c.cap = true) := by
  induction bs generalizing a m with
  | nil =>
    cases h
    simp
  | cons b bs ih =>
    simp only [writeRun] at h
    split at h
    · rename_i m1 hw
      obtain ⟨ha, rfl⟩ := writeBuf_eq_ok.1 hw
      obtain ⟨h1, h2, h3, h4, h5⟩ := ih h
      refine ⟨fun _ => ?_, fun j hj => ?_, fun x hx => ?_, fun hm => h4 (Memory.wf_write a b hm),
        fun hm => h5 (Memory.below_write b hm ha)⟩
      · cases bs with
        | nil => simp; omega
        | cons b' bs' =>
          have := h1 (by simp)
          simp only [List.length_cons] at this ⊢
          omega
      · cases j with
        | zero => simpa using h3 a (by omega)
        | succ j =>
          have := h2 j (by simpa using hj)
          rw [show a + (j + 1) = a + 1 + j by omega, this]
          simp
      · rw [h3 x (by simp only [List.length_cons] at hx; omega)]
        exact Memory.read_write_other m b (by simp only [List.length_cons] at hx; omega)
    · cases h

/-- `writeRun` answers a memory whenever the run lies inside `BUF`. -/
theorem writeRun_isOk {c : Cfg} {a : Nat} {bs : List Byte} (m : Memory) (h : a + bs.length ≤ c.cap) :
    ∃ m', writeRun c a bs m = .ok m' := by
  induction bs generalizing a m with
  | nil => exact ⟨m, rfl⟩
  | cons b bs ih =>
    simp only [List.length_cons] at h
    have ha : a < c.cap := by omega
    obtain ⟨m', hm'⟩ := ih (a := a + 1) (m.write a b) (by omega)
    exact ⟨m', by simp [writeRun, writeBuf, ha, hm']⟩

theorem readFrom_eq_ok {c : Cfg} {a : Nat} {b : Byte} : readFrom c a = .ok b ↔ c.frm.read a = some b := by
  unfold readFrom
  split <;> simp_all

end Sys2Proof.Machine
end

