-- ==== Sys2Proof/Laws/Buffer.lean ====
section
/-! SUPPORT. Laws/Buffer.lean: reading `BUF`: which offsets hold a byte, what a write does to a read, that no other
update touches a byte of it, and what a run of reads gives. -/
namespace Sys2Proof.Machine

@[simp] theorem setSt_bufRead (v : Proto) (s : State) (a : Nat) :
    (s.setSt v).bufRead a = s.bufRead a := rfl
@[simp] theorem setSt_bufWritten (v : Proto) (s : State) (a : Nat) :
    (s.setSt v).bufWritten a = s.bufWritten a := rfl
@[simp] theorem setPh_bufRead (v : Phase) (s : State) (a : Nat) :
    (s.setPh v).bufRead a = s.bufRead a := rfl
@[simp] theorem setPh_bufWritten (v : Phase) (s : State) (a : Nat) :
    (s.setPh v).bufWritten a = s.bufWritten a := rfl
@[simp] theorem setFi_bufRead (v : Nat) (s : State) (a : Nat) :
    (s.setFi v).bufRead a = s.bufRead a := rfl
@[simp] theorem setFi_bufWritten (v : Nat) (s : State) (a : Nat) :
    (s.setFi v).bufWritten a = s.bufWritten a := rfl
@[simp] theorem setCc_bufRead (v : Nat) (s : State) (a : Nat) :
    (s.setCc v).bufRead a = s.bufRead a := rfl
@[simp] theorem setCc_bufWritten (v : Nat) (s : State) (a : Nat) :
    (s.setCc v).bufWritten a = s.bufWritten a := rfl
@[simp] theorem setLen_bufRead (v : Nat) (s : State) (a : Nat) :
    (s.setLen v).bufRead a = s.bufRead a := rfl
@[simp] theorem setLen_bufWritten (v : Nat) (s : State) (a : Nat) :
    (s.setLen v).bufWritten a = s.bufWritten a := rfl
@[simp] theorem setLed_bufRead (v : BitVec 1) (s : State) (a : Nat) :
    (s.setLed v).bufRead a = s.bufRead a := rfl
@[simp] theorem setLed_bufWritten (v : BitVec 1) (s : State) (a : Nat) :
    (s.setLed v).bufWritten a = s.bufWritten a := rfl
@[simp] theorem setWinc_bufRead (v : Byte × Byte) (s : State) (a : Nat) :
    (s.setWinc v).bufRead a = s.bufRead a := rfl
@[simp] theorem setWinc_bufWritten (v : Byte × Byte) (s : State) (a : Nat) :
    (s.setWinc v).bufWritten a = s.bufWritten a := rfl
@[simp] theorem setWinr_bufRead (v : Byte × Byte) (s : State) (a : Nat) :
    (s.setWinr v).bufRead a = s.bufRead a := rfl
@[simp] theorem setWinr_bufWritten (v : Byte × Byte) (s : State) (a : Nat) :
    (s.setWinr v).bufWritten a = s.bufWritten a := rfl
@[simp] theorem emit_bufRead (v : Event) (s : State) (a : Nat) :
    (s.emit v).bufRead a = s.bufRead a := rfl
@[simp] theorem emit_bufWritten (v : Event) (s : State) (a : Nat) :
    (s.emit v).bufWritten a = s.bufWritten a := rfl
@[simp] theorem setShown_bufRead (v : List Byte) (s : State) (a : Nat) :
    (s.setShown v).bufRead a = s.bufRead a := rfl
@[simp] theorem setShown_bufWritten (v : List Byte) (s : State) (a : Nat) :
    (s.setShown v).bufWritten a = s.bufWritten a := rfl
@[simp] theorem takeAnswer_bufRead (s : State) (a : Nat) : s.takeAnswer.bufRead a = s.bufRead a := rfl
@[simp] theorem takeAnswer_bufWritten (s : State) (a : Nat) : s.takeAnswer.bufWritten a = s.bufWritten a := rfl

/-- A bus write leaves every byte of `BUF`. -/
@[simp] theorem afterWrite_bufRead (bytes : List Byte) (r : BusResult) (s : State) (a : Nat) :
    (afterWrite bytes r s).bufRead a = s.bufRead a := by
  rw [afterWrite_eq]; rfl

@[simp] theorem afterWrite_bufWritten (bytes : List Byte) (r : BusResult) (s : State) (a : Nat) :
    (afterWrite bytes r s).bufWritten a = s.bufWritten a := by
  rw [afterWrite_eq]; rfl

/-- `BUF` is exactly `CAP` bytes (R27). -/
theorem bufRead_isSome {s : State} {a : Nat} : (s.bufRead a).isSome = true ↔ a < s.cfg.cap := by
  unfold State.bufRead
  split <;> simp [*]

/-- An offset written since reset holds the byte written. -/
theorem bufRead_of_listed {s : State} {a : Nat} {b : Byte} (ha : a < s.cfg.cap) (h : s.buf.read a = some b) :
    s.bufRead a = some b := by
  simp [State.bufRead, ha, h]

/-- Two states of one configuration and one reset whose cells agree at an offset hold the same byte there. -/
theorem bufRead_congr {s t : State} {a : Nat} (hc : t.cfg = s.cfg) (hr : t.resets = s.resets)
    (h : t.buf.read a = s.buf.read a) : t.bufRead a = s.bufRead a := by
  simp [State.bufRead, hc, hr, h]

theorem bufWritten_congr {s t : State} {a : Nat} (h : t.buf.read a = s.buf.read a) :
    t.bufWritten a = s.bufWritten a := by
  simp [State.bufWritten, h]

theorem bufRead_write_same {s : State} {a : Nat} (b : Byte) (ha : a < s.cfg.cap) :
    (s.setBuf (s.buf.write a b)).bufRead a = some b :=
  bufRead_of_listed ha (Memory.read_write_same _ _ _)

theorem bufRead_write_other {s : State} {a a' : Nat} (b : Byte) (h : a' ≠ a) :
    (s.setBuf (s.buf.write a b)).bufRead a' = s.bufRead a' :=
  bufRead_congr rfl rfl (Memory.read_write_other _ _ h)

/-- A read of one byte answers exactly the byte at the offset. -/
theorem readBuf_eq_ok {s : State} {a : Nat} {b : Byte} : readBuf s a = .ok b ↔ s.bufRead a = some b := by
  unfold readBuf
  cases s.bufRead a <;> simp

/-- A run is read exactly when each of its offsets holds the byte of the run. -/
theorem readBufRun_eq_ok {s : State} {a n : Nat} {bs : List Byte} :
    readBufRun s a n = .ok bs ↔ bs.length = n ∧ ∀ j < n, s.bufRead (a + j) = bs[j]? := by
  induction n generalizing a bs with
  | zero => cases bs <;> simp [readBufRun]
  | succ n ih =>
    constructor
    · intro h
      simp only [readBufRun] at h
      split at h <;> cases h
      rename_i b rest hb hrest
      obtain ⟨hl, hr⟩ := ih.1 hrest
      refine ⟨by simp [hl], fun j hj => ?_⟩
      cases j with
      | zero => simpa using readBuf_eq_ok.1 hb
      | succ j =>
        rw [show a + (j + 1) = a + 1 + j by omega, hr j (by omega), List.getElem?_cons_succ]
    · rintro ⟨hl, hr⟩
      cases bs with
      | nil => simp at hl
      | cons b rest =>
        have h0 : readBuf s a = .ok b := readBuf_eq_ok.2 (by simpa using hr 0 (by omega))
        have hrest : readBufRun s (a + 1) n = .ok rest := by
          refine ih.2 ⟨by simpa using hl, fun j hj => ?_⟩
          rw [show a + 1 + j = a + (j + 1) by omega, hr (j + 1) (by omega), List.getElem?_cons_succ]
        simp [readBufRun, h0, hrest]

/-- A run inside `CAP` can be read. -/
theorem readBufRun_isOk {s : State} {a n : Nat} (h : a + n ≤ s.cfg.cap) : ∃ bs, readBufRun s a n = .ok bs := by
  induction n generalizing a with
  | zero => exact ⟨[], rfl⟩
  | succ n ih =>
    obtain ⟨b, hb⟩ := Option.isSome_iff_exists.1 (bufRead_isSome.2 (show a < s.cfg.cap by omega))
    obtain ⟨bs, hbs⟩ := ih (a := a + 1) (by omega)
    exact ⟨b :: bs, by simp [readBufRun, readBuf_eq_ok.2 hb, hbs]⟩

end Sys2Proof.Machine
end

