-- ==== Sys2Proof/Laws/Config.lean ====
section
/-! SUPPORT. Laws/Config.lean: what `ConfigOK` gives (R10), one fact a lemma. -/
namespace Sys2Proof

/-- `ConfigOK` is the conjunction of the conditions (a) to (f) of R10. -/
theorem Cfg.configOK_iff (c : Cfg) :
    c.configOK = true ↔
      1 ≤ c.n ∧ (1 ≤ c.h ∧ 1 ≤ c.w) ∧ 4 * c.l = c.p ∧ c.frm.map (fun x => x.1) = List.range (c.n * c.l) ∧
        c.devAddr < 128 ∧ (c.clearEn = true → 1 ≤ c.panelPayload) := by
  simp only [Cfg.configOK, Cfg.hasFrames, Cfg.hasArea, Cfg.lengthsMatch, Cfg.storeFull, Cfg.addrFits, Cfg.clearCovers,
    Bool.and_eq_true, Bool.or_eq_true, Bool.not_eq_true', decide_eq_true_eq, and_assoc]
  cases c.clearEn <;> simp

theorem Cfg.frames_of_ok {c : Cfg} (h : c.configOK = true) : 1 ≤ c.n := ((Cfg.configOK_iff c).1 h).1

theorem Cfg.hasFrames_of_ok {c : Cfg} (h : c.configOK = true) : c.hasFrames = true := by
  simpa [Cfg.hasFrames] using Cfg.frames_of_ok h

theorem Cfg.lengths_of_ok {c : Cfg} (h : c.configOK = true) : 4 * c.l = c.p := ((Cfg.configOK_iff c).1 h).2.2.1

theorem Cfg.cap_of_ok {c : Cfg} (h : c.configOK = true) : c.cap = 1 + 4 * c.l := by
  rw [Cfg.cap, Cfg.lengths_of_ok h]

/-- A frame has at least one byte: `L >= 1`. -/
theorem Cfg.l_pos_of_ok {c : Cfg} (h : c.configOK = true) : 1 ≤ c.l := by
  obtain ⟨-, ⟨hh, hw⟩, -⟩ := (Cfg.configOK_iff c).1 h
  have hrb : 1 ≤ c.rb := by unfold Cfg.rb; omega
  exact Nat.mul_pos hrb hh

/-- Every address of the frame store reads as a byte (R30, R66). -/
theorem Cfg.frm_read_of_ok {c : Cfg} (h : c.configOK = true) {a : Nat} (ha : a < c.n * c.l) :
    (c.frm.read a).isSome = true := by
  refine Memory.read_of_listed ?_
  rw [((Cfg.configOK_iff c).1 h).2.2.2.1]
  simpa using ha

/-- Byte `k` of frame `i` is in the frame store (R51, R66). -/
theorem Cfg.frame_byte_of_ok {c : Cfg} (h : c.configOK = true) {i k : Nat} (hi : i < c.n) (hk : k < c.l) :
    (c.frm.read (i * c.l + k)).isSome = true := by
  refine Cfg.frm_read_of_ok h ?_
  calc i * c.l + k < i * c.l + c.l := by omega
    _ = (i + 1) * c.l := by rw [Nat.add_mul, Nat.one_mul]
    _ ≤ c.n * c.l := Nat.mul_le_mul_right _ hi

/-- A wanted clear needs at least one write: `CLEAR_WRITES >= 1` (R171). -/
theorem Cfg.clearWrites_pos_of_ok {c : Cfg} (h : c.configOK = true) (hc : c.clearEn = true) : 1 ≤ c.clearWrites := by
  have hp : 1 ≤ c.p := by
    have := Cfg.l_pos_of_ok h
    have := Cfg.lengths_of_ok h
    omega
  have hpp := ((Cfg.configOK_iff c).1 h).2.2.2.2.2 hc
  unfold Cfg.clearWrites
  rw [Nat.le_div_iff_mul_le (by omega)]
  omega

end Sys2Proof
end

