-- ==== Sys2Proof/Laws/PerInstr.lean ====
section
/-! SUPPORT. Laws/PerInstr.lean: one statement about every row of the opcode table, one lemma a constructor.
`Framing`: the transaction a row encodes to starts with its control byte and has its format's length (R81 to R85,
R92); a row that emits nothing encodes to no transaction (R80). -/
namespace Sys2Proof.Laws.Framing

/-- The control byte and the length of the row's transaction, for a payload of `n` bytes (R81). -/
def shape (n : Nat) : Instr → Option (Byte × Nat)
  | .pwron => some (0x00, 2)
  | .remap _ => some (0x00, 3)
  | .colwin _ _ => some (0x00, 4)
  | .rowwin _ _ => some (0x00, 4)
  | .wdata => some (0x40, 1 + n)
  | _ => none

/-- Whatever the configuration and the payload, the row's transaction has that control byte and that length. -/
def Statement (i : Instr) : Prop :=
  ∀ (c : Cfg) (payload t : List Byte), encode c (Request.mk i payload) = some (.transaction t) →
    ∃ b n, shape payload.length i = some (b, n) ∧ t.head? = some b ∧ t.length = n

theorem pwron : Statement .pwron := by
  rintro c p t ⟨⟩; exact ⟨_, _, rfl, rfl, rfl⟩
theorem remap (a : Byte) : Statement (.remap a) := by
  rintro c p t ⟨⟩; exact ⟨_, _, rfl, rfl, rfl⟩
theorem colwin (s e : Byte) : Statement (.colwin s e) := by
  rintro c p t ⟨⟩; exact ⟨_, _, rfl, rfl, rfl⟩
theorem rowwin (s e : Byte) : Statement (.rowwin s e) := by
  rintro c p t ⟨⟩; exact ⟨_, _, rfl, rfl, rfl⟩
theorem wdata : Statement .wdata := by
  rintro c p t ⟨⟩; exact ⟨_, _, rfl, rfl, Nat.add_comm _ _⟩
theorem unpkf : Statement .unpkf := by
  rintro c p t ⟨⟩
theorem zfill : Statement .zfill := by
  rintro c p t ⟨⟩
theorem start : Statement .start := by
  rintro c p t ⟨⟩
theorem ledt : Statement .ledt := by
  rintro c p t ⟨⟩
theorem next : Statement .next := by
  rintro c p t ⟨⟩
theorem expand (b : Byte) : Statement (.expand b) := by
  rintro c p t ⟨⟩

end Sys2Proof.Laws.Framing
end

