-- ==== Sys2Proof/Laws/Step.lean ====
section
/-! SUPPORT. Laws/Step.lean: the inversion of one step, said once: a reset, or the selected operation followed by the
phase's own writes; and what WDATA can do. -/
namespace Sys2Proof.Machine

/-- If the machine steps, it took a reset, or it ran the operation its phase selects and then the phase's writes. -/
theorem step_eq_next {s t : State} :
    step s = .next t ↔
      (s.rst = true ∧ t = takeReset s) ∨
        (s.rst = false ∧ ∃ i u, selectOp s.cfg s.ph = some i ∧ exec i s = .next u ∧ finishPhase s.ph u = t) := by
  unfold step
  cases h : s.rst
  · cases hi : selectOp s.cfg s.ph with
    | none => simp
    | some i => simp [mapNext_eq_next]
  · simp [eq_comm]

/-- If the machine faults, it is in the error phase or the selected operation faulted. -/
theorem step_eq_fault {s : State} {f : Fault} :
    step s = .fault f ↔
      s.rst = false ∧ ((selectOp s.cfg s.ph = none ∧ f = .configError) ∨
        ∃ i, selectOp s.cfg s.ph = some i ∧ exec i s = .fault f) := by
  unfold step
  cases h : s.rst
  · cases hi : selectOp s.cfg s.ph with
    | none => simp [eq_comm]
    | some i => simp [mapNext_eq_fault]
  · simp

/-- If the machine refuses, the selected operation refused. -/
theorem step_eq_refused {s : State} {q : Refusal} :
    step s = .refused q ↔ s.rst = false ∧ ∃ i, selectOp s.cfg s.ph = some i ∧ exec i s = .refused q := by
  unfold step
  cases h : s.rst
  · cases hi : selectOp s.cfg s.ph with
    | none => simp
    | some i => simp [mapNext_eq_refused]
  · simp

/-- Only the error phase selects nothing (R90, R165). -/
theorem selectOp_eq_none {c : Cfg} {p : Phase} : selectOp c p = none ↔ p = .cfgErr := by
  cases p <;> simp [selectOp]

/-- WDATA's precondition on the payload, offset by offset (R135). -/
theorem payloadWritten_iff {s : State} :
    payloadWritten s = true ↔ ∀ a, 1 ≤ a → a < s.len → s.bufWritten a = true := by
  simp only [payloadWritten, List.all_eq_true, List.mem_range]
  refine ⟨fun h a h1 hl => ?_, fun h j hj => h _ (by omega) (by omega)⟩
  have := h (a - 1) (by omega)
  rwa [show 1 + (a - 1) = a by omega] at this

/-- Outside its precondition WDATA is refused (R135). -/
theorem execWdata_refused {s : State}
    (h : ¬(2 ≤ s.len ∧ s.len ≤ s.cfg.cap ∧ ∀ a, 1 ≤ a → a < s.len → s.bufWritten a = true)) :
    execWdata s = .refused .wdataPrecondition := by
  unfold execWdata
  refine if_neg fun hb => h ?_
  simpa [lenFits, payloadWritten_iff, and_assoc] using hb

/-- WDATA within its precondition is one bus call with the control byte and the payload (R135). -/
theorem execWdata_eq_xmit {s : State} {payload : List Byte} (h2 : 2 ≤ s.len) (hc : s.len ≤ s.cfg.cap)
    (hw : ∀ a, 1 ≤ a → a < s.len → s.bufWritten a = true) (hl : payload.length = s.len - 1)
    (hp : ∀ j < payload.length, s.bufRead (1 + j) = payload[j]?) :
    execWdata s = xmit (ctrlData :: payload) (s.setBuf (s.buf.write 0 ctrlData)) := by
  have hcap : 0 < s.cfg.cap := by omega
  have hrun : readBufRun (s.setBuf (s.buf.write 0 ctrlData)) 0 s.len = .ok (ctrlData :: payload) := by
    refine readBufRun_eq_ok.2 ⟨by simp [hl]; omega, fun j hj => ?_⟩
    cases j with
    | zero => exact bufRead_write_same _ hcap
    | succ j =>
      rw [bufRead_write_other _ (by omega), List.getElem?_cons_succ, ← hp j (by omega)]
      congr 1
      omega
  simp [execWdata, lenFits, h2, hc, payloadWritten_iff.2 hw, writeBuf, hcap, hrun]

/-- If WDATA answers a next state: its precondition held, the bytes sent are the control byte and the payload read from
`BUF`, and the state is the one the bus write leaves (R135). -/
theorem execWdata_eq_next {s t : State} :
    execWdata s = .next t ↔
      2 ≤ s.len ∧ s.len ≤ s.cfg.cap ∧ (∀ a, 1 ≤ a → a < s.len → s.bufWritten a = true) ∧
        ∃ payload r, payload.length = s.len - 1 ∧ (∀ j < payload.length, s.bufRead (1 + j) = payload[j]?) ∧
          s.nextAnswer = .returns r ∧
          t = afterWrite (ctrlData :: payload) r (s.setBuf (s.buf.write 0 ctrlData)) := by
  by_cases hpre : 2 ≤ s.len ∧ s.len ≤ s.cfg.cap ∧ ∀ a, 1 ≤ a → a < s.len → s.bufWritten a = true
  · obtain ⟨h2, hc, hw⟩ := hpre
    obtain ⟨payload, hrun⟩ := readBufRun_isOk (s := s) (a := 1) (n := s.len - 1) (by omega)
    obtain ⟨hl, hp⟩ := readBufRun_eq_ok.1 hrun
    rw [execWdata_eq_xmit h2 hc hw hl (by rwa [hl]), xmit_eq_next]
    refine ⟨fun ⟨r, hr, ht⟩ => ⟨h2, hc, hw, payload, r, hl, by rwa [hl], hr, ht⟩, ?_⟩
    rintro ⟨-, -, -, payload', r, hl', hp', hr, rfl⟩
    have : payload' = payload := by
      refine List.ext_getElem? fun j => ?_
      by_cases hj : j < s.len - 1
      · rw [← hp j hj, ← hp' j (by omega)]
      · rw [List.getElem?_eq_none (by omega), List.getElem?_eq_none (by omega)]
    subst this
    exact ⟨r, hr, rfl⟩
  · rw [execWdata_refused hpre]
    exact ⟨(nomatch ·), fun ⟨h2, hc, hw, _⟩ => absurd ⟨h2, hc, hw⟩ hpre⟩

end Sys2Proof.Machine
end

