-- ==== Sys2Proof/Laws/Unpacker.lean ====
section
/-! SUPPORT. Laws/Unpacker.lean: what EXPAND and the loop of UNPKF give. -/
namespace Sys2Proof.Machine

@[simp] theorem expand_length (b : Byte) : (expand b).length = 4 := rfl

/-- If the loop answers a memory: every packed byte was there, its expansion stands in its four offsets, and the rest
is as before (R113). -/
theorem unpackBytes_ok {c : Cfg} {base count k : Nat} {m m' : Memory}
    (h : unpackBytes c base count k m = .ok m') :
    (∀ j < count, ∃ b, c.frm.read (base + (k + j)) = some b ∧
        ∀ i < 4, m'.read (1 + 4 * (k + j) + i) = (expand b)[i]?) ∧
      (∀ x, x < 1 + 4 * k ∨ 1 + 4 * (k + count) ≤ x → m'.read x = m.read x) ∧
      (m.wf = true → m'.wf = true) ∧ (m.below c.cap = true → m'.below c.cap = true) := by
  induction count generalizing k m with
  | zero =>
    cases h
    simp
  | succ count ih =>
    simp only [unpackBytes] at h
    split at h
    · cases h
    rename_i b hb
    split at h
    · cases h
    rename_i m1 hw
    obtain ⟨-, w2, w3, w4, w5⟩ := writeRun_ok hw
    simp only [expand_length] at w2 w3
    obtain ⟨i1, i2, i3, i4⟩ := ih h
    refine ⟨fun j hj => ?_, fun x hx => ?_, fun hm => i3 (w4 hm), fun hm => i4 (w5 hm)⟩
    · cases j with
      | zero =>
        refine ⟨b, readFrom_eq_ok.1 hb, fun i hi => ?_⟩
        rw [i2 _ (by omega)]
        exact w2 i hi
      | succ j =>
        obtain ⟨b', hb', hr⟩ := i1 j (by omega)
        refine ⟨b', ?_, fun i hi => ?_⟩
        · rw [show base + (k + (j + 1)) = base + (k + 1 + j) by omega]
          exact hb'
        · rw [show 1 + 4 * (k + (j + 1)) + i = 1 + 4 * (k + 1 + j) + i by omega]
          exact hr i hi
    · rw [i2 x (by omega)]
      exact w3 x (by omega)

/-- The loop answers a memory whenever the frame's bytes are there and fit the buffer (R66). -/
theorem unpackBytes_isOk {c : Cfg} {base count k : Nat} (m : Memory)
    (hf : ∀ j < count, (c.frm.read (base + (k + j))).isSome = true) (hc : 1 + 4 * (k + count) ≤ c.cap) :
    ∃ m', unpackBytes c base count k m = .ok m' := by
  induction count generalizing k m with
  | zero => exact ⟨m, rfl⟩
  | succ count ih =>
    obtain ⟨b, hb⟩ := Option.isSome_iff_exists.1 (hf 0 (by omega))
    have hb' : readFrom c (base + k) = .ok b := readFrom_eq_ok.2 hb
    obtain ⟨m1, hm1⟩ := writeRun_isOk (c := c) (a := 1 + 4 * k) (bs := expand b) m (by simp; omega)
    obtain ⟨m2, hm2⟩ := ih (k := k + 1) m1
      (fun j hj => by
        have := hf (j + 1) (by omega)
        rwa [show base + (k + 1 + j) = base + (k + (j + 1)) by omega])
      (by omega)
    exact ⟨m2, by simp [unpackBytes, hb', hm1, hm2]⟩

end Sys2Proof.Machine
end

