-- ==== Sys2Proof/Tests/Slice0.lean ====
section
/-! SUPPORT. Tests/Slice0.lean: small tests of one step each, expected values from 95_test_vectors.md (the vector is
named) or written out from the encoding rules, and for each obligation with hypotheses a concrete state and operands
that meet them (test_witness_*). -/
namespace Sys2Proof.Tests
open Sys2Proof.Machine

/-! ### Small configurations and states -/

/-- Program P2 (95 section 4): two frames, with the clear. -/
def cfgClear : Cfg :=
  { Cfg.probe with
    h := 2, n := 2, frm := [(0, 0x81), (1, 0x7E), (2, 0xFF), (3, 0x00)], clearEn := true, panelPayload := 10,
    colStart := 4, colEnd := 7, rowStart := 10, rowEnd := 11 }

/-- Three frames of one row (Q10, Q11). -/
def cfgThree : Cfg := { Cfg.probe with n := 3, frm := [(0, 0xB0), (1, 0xA5), (2, 0x5A)] }

/-- No frames (P4 a). -/
def cfgEmpty : Cfg := { Cfg.probe with n := 0, frm := [] }

/-- A state in a phase, with the protocol state of it, `LED` high, and the bus answering `Ok`. -/
def stateAt (c : Cfg) (p : Phase) : State where
  cfg := c
  st := p.proto
  ph := p
  fi := 0
  cc := 0
  len := 1
  buf := []
  led := 1
  winc := none
  winr := none
  out := []
  rst := false
  busIn := [.returns .ok]
  drawn := 0
  resets := 0
  shown := []

/-- The same with the animation window issued. -/
def streamingAt (c : Cfg) (p : Phase) : State :=
  { stateAt c p with winc := some c.animCols, winr := some c.animRows }

/-- The bus error of the vectors. -/
def busErr : BusError := ⟨1⟩

/-- A field of the next state, if there is one. -/
def after {α : Type} (o : Result) (f : State → α) : Option α :=
  match o with
  | .next t => some (f t)
  | .fault _ => none
  | .refused _ => none

/-- The fault of an outcome, if it is one. -/
def faultOf : Result → Option Fault
  | .fault f => some f
  | .next _ => none
  | .refused _ => none

/-- The refusal of an outcome, if it is one. -/
def refusalOf : Result → Option Refusal
  | .refused r => some r
  | .next _ => none
  | .fault _ => none

/-! ### Well-formedness: an ill-formed term for each check -/

theorem test_configOK_probe : Cfg.probe.configOK = true := by decide
theorem test_configOK_clear : cfgClear.configOK = true := by decide
theorem test_configOK_three : cfgThree.configOK = true := by decide
/-- R10(a), P4(a). -/
theorem test_illformed_noFrames : cfgEmpty.configOK = false ∧ cfgEmpty.hasFrames = false := by decide
/-- R10(b). -/
theorem test_illformed_noArea :
    ({ Cfg.probe with h := 0, frm := [] } : Cfg).hasArea = false ∧
    ({ Cfg.probe with w := 0, frm := [] } : Cfg).hasArea = false ∧
    ({ Cfg.probe with h := 0, frm := [] } : Cfg).configOK = false := by decide
/-- R10(c), Q17: W = 12, H = 2. -/
theorem test_illformed_width12 :
    ({ Cfg.probe with w := 12, h := 2, frm := [(0, 0), (1, 0), (2, 0), (3, 0)] } : Cfg).lengthsMatch = false ∧
    ({ Cfg.probe with w := 12, h := 2, frm := [(0, 0), (1, 0), (2, 0), (3, 0)] } : Cfg).configOK = false := by decide
/-- R10(d): a frame short, and an address out of order. -/
theorem test_illformed_store :
    ({ Cfg.probe with n := 2 } : Cfg).storeFull = false ∧
    ({ cfgThree with frm := [(0, 0), (2, 0), (1, 0)] } : Cfg).configOK = false := by decide
/-- R10(e). -/
theorem test_illformed_addr :
    ({ Cfg.probe with devAddr := 128 } : Cfg).addrFits = false ∧
    ({ Cfg.probe with devAddr := 128 } : Cfg).configOK = false ∧
    ({ Cfg.probe with devAddr := 127 } : Cfg).configOK = true := by decide
/-- R10(f). -/
theorem test_illformed_clear :
    ({ cfgClear with panelPayload := 0 } : Cfg).clearCovers = false ∧
    ({ cfgClear with panelPayload := 0 } : Cfg).configOK = false := by decide
/-- R93: equal window opcodes have no single reading. -/
theorem test_illformed_opcodes :
    ({ Cfg.probe with opcRowwin := 0x15 } : Cfg).opcodesDistinct = false ∧
    decode { Cfg.probe with opcRowwin := 0x15 } (.transaction [0x00, 0x15, 0, 0]) = .error .ambiguousWindow := by decide
/-- R85: WDATA carries 1 to P bytes; any other operation none. -/
theorem test_illformed_request :
    (Request.mk .wdata []).wf Cfg.probe = false ∧ (Request.mk .wdata [0, 0, 0, 0, 0]).wf Cfg.probe = false ∧
    (Request.mk .wdata [0, 0, 0, 0]).wf Cfg.probe = true ∧ (Request.mk .unpkf [0]).wf Cfg.probe = false := by decide
theorem test_illformed_memory : Memory.wf [(1, 0), (0, 0)] = false ∧ Memory.wf [(1, 0), (1, 0)] = false := by decide

/-! ### Decoding: the words written out from R81 to R85, R90 (opcode bytes of G2) -/

theorem test_decode_pwron : decode Cfg.probe (.transaction [0b00000000, 0b10101111]) = .ok (Request.mk .pwron []) := by
  decide
theorem test_decode_remap :
    decode Cfg.probe (.transaction [0b00000000, 0b10100000, 0b01010001]) = .ok (Request.mk (.remap 0x51) []) := by decide
theorem test_decode_colwin :
    decode Cfg.probe (.transaction [0b00000000, 0b00010101, 0b00000000, 0b00010011]) =
      .ok (Request.mk (.colwin 0 19) []) := by decide
theorem test_decode_rowwin :
    decode Cfg.probe (.transaction [0b00000000, 0b01110101, 0b00000000, 0b00101001]) =
      .ok (Request.mk (.rowwin 0 41) []) := by decide
theorem test_decode_wdata :
    decode Cfg.probe (.transaction [0b01000000, 0b11110000, 0b11111111]) = .ok (Request.mk .wdata [0xF0, 0xFF]) := by
  decide
theorem test_decode_unpkf : decode Cfg.probe (.phaseCode 0b1001) = .ok (Request.mk .unpkf []) := by decide
theorem test_decode_zfill : decode Cfg.probe (.phaseCode 0b0100) = .ok (Request.mk .zfill []) := by decide
theorem test_decode_start : decode Cfg.probe (.phaseCode 0b1000) = .ok (Request.mk .start []) := by decide
theorem test_decode_ledt : decode Cfg.probe (.phaseCode 0b1011) = .ok (Request.mk .ledt []) := by decide
theorem test_decode_next : decode Cfg.probe (.phaseCode 0b1100) = .ok (Request.mk .next []) := by decide
/-- EXPAND has no words of its own (R111). -/
theorem test_encode_expand : encode Cfg.probe (Request.mk (.expand 0xB0) []) = none := by decide
theorem test_decode_unused :
    decode Cfg.probe (.phaseCode 13) = .error .unusedPhase ∧ decode Cfg.probe (.phaseCode 14) = .error .unusedPhase ∧
    decode Cfg.probe (.phaseCode 15) = .error .configErrorPhase := by decide
theorem test_decode_rejects :
    decode Cfg.probe (.transaction [0x80, 0xAF]) = .error (.badControl 0x80) ∧
    decode Cfg.probe (.transaction [0x00, 0xAE]) = .error (.unknownCommand 0xAE) ∧
    decode Cfg.probe (.transaction [0x00, 0xAF, 0x00]) = .error (.unknownCommand 0xAF) := by decide

/-- The table's rows as numbers: the operation they stand for. -/
theorem test_table_words :
    decodeTableWord 16 0x00AF = some .pwron ∧ decodeTableWord 24 0x00A051 = some (.remap 0x51) ∧
    decodeTableWord 32 0x00150013 = some (.colwin 0 19) ∧ decodeTableWord 32 0x00750029 = some (.rowwin 0 41) ∧
    decodeTableWord 8 0x40 = some .wdata ∧ decodeTableWord 8 9 = some .unpkf ∧ decodeTableWord 8 4 = some .zfill ∧
    decodeTableWord 8 8 = some .start ∧ decodeTableWord 8 11 = some .ledt ∧ decodeTableWord 8 12 = some .next := by
  decide

/-- A placed table word is what the next step runs, from the state after reset. -/
theorem test_placed_words :
    after (step (State.reset.withFetchWord 16 0x0000)) (fun t => t.ph) = some .remap ∧
    after (step (State.reset.withFetchWord 24 0x000000)) (fun t => t.st) = some .poweredOn ∧
    after (step (State.reset.withFetchWord 32 0x00150013)) (fun t => t.winc) = some (some (0, 19)) ∧
    after (step (State.reset.withFetchWord 32 0x00750029)) (fun t => t.winr) = some (some (0, 41)) ∧
    after (step (State.reset.withFetchWord 8 0x40)) (fun t => t.ph) = some .led ∧
    after (step (State.reset.withFetchWord 8 9)) (fun t => t.len) = some 5 ∧
    after (step (State.reset.withFetchWord 8 4)) (fun t => t.ph) = some .clrSend ∧
    after (step (State.reset.withFetchWord 8 8)) (fun t => t.st) = some .streaming ∧
    after (step (State.reset.withFetchWord 8 11)) (fun t => t.ph) = some .next ∧
    after (step (State.reset.withFetchWord 8 12)) (fun t => t.ph) = some .unpack := by decide

/-! ### EXPAND and the unpacker (95 section 3.1) -/

/-- U3, U4, U8 and the document's byte. -/
theorem test_expand_vectors :
    expand 0x80 = [0xF0, 0x00, 0x00, 0x00] ∧ expand 0x01 = [0x00, 0x00, 0x00, 0x0F] ∧
    expand 0xA5 = [0xF0, 0xF0, 0x0F, 0x0F] ∧ expand 0xB0 = [0xF0, 0xFF, 0x00, 0x00] := by decide

/-- U10. -/
theorem test_unpkf_two_rows :
    after (exec .unpkf { stateAt cfgClear .unpack with buf := [(0, 0x40)] }) (fun t => (t.buf, t.len)) =
      some (Memory.ofBytes 0 [0x40, 0xF0, 0x00, 0x00, 0x0F, 0x0F, 0xFF, 0xFF, 0xF0], 9) := by decide

/-- U11: the second frame replaces the first. -/
theorem test_unpkf_replaces :
    after (exec .unpkf
      { stateAt { Cfg.probe with n := 2, frm := [(0, 0xA5), (1, 0x5A)] } .unpack with
        fi := 1, buf := Memory.ofBytes 1 [0xF0, 0xF0, 0x0F, 0x0F] }) (fun t => (t.buf, t.len)) =
      some (Memory.ofBytes 1 [0x0F, 0x0F, 0xF0, 0xF0], 5) := by decide

/-- U12: pixel (0,0) is the high nibble of `BUF[1]`, pixel (15,0) the low nibble of `BUF[8]`. -/
theorem test_unpkf_wide :
    after (exec .unpkf (stateAt { Cfg.probe with w := 16, frm := [(0, 0x80), (1, 0x01)] } .unpack))
      (fun t => (t.buf, payloadPixel t 0 0, payloadPixel t 15 0)) =
      some (Memory.ofBytes 1 [0xF0, 0, 0, 0, 0, 0, 0, 0x0F], some 0xF, some 0xF) := by decide

/-- U13. -/
theorem test_zfill :
    after (exec .zfill { stateAt cfgClear .clrFill with buf := [(0, 0x12), (3, 0x99)] }) (fun t => (t.buf, t.len)) =
      some (Memory.ofBytes 0 [0x12, 0, 0, 0, 0, 0, 0, 0, 0], 9) := by decide

/-! ### The framer (95 section 3.2) -/

/-- F1. -/
theorem test_pwron : after (exec .pwron (stateAt Cfg.probe .pwron)) (fun t => t.out) =
    some [.bus 0x3C [0x00, 0xAF] .ok] := by decide
/-- F2. -/
theorem test_pwron_err :
    after (exec .pwron { stateAt Cfg.probe .pwron with busIn := [.returns (.err busErr)] }) (fun t => t.out) =
      some [.bus 0x3C [0x00, 0xAF] (.err busErr), .log busErr .pwron] := by decide
/-- F3. -/
theorem test_remap : after (exec (.remap 0x51) (stateAt Cfg.probe .remap)) (fun t => t.out) =
    some [.bus 0x3C [0x00, 0xA0, 0x51] .ok] := by decide
/-- F6: a range with its start above its end is sent unchecked. -/
theorem test_colwin : after (exec (.colwin 9 3) (stateAt Cfg.probe .winCol)) (fun t => (t.out, t.winc)) =
    some ([.bus 0x3C [0x00, 0x15, 0x09, 0x03] .ok], some (9, 3)) := by decide
/-- F5: a failed write, the range kept all the same. -/
theorem test_rowwin_err :
    after (exec (.rowwin 0 41) { stateAt Cfg.probe .winRow with busIn := [.returns (.err busErr)] })
      (fun t => (t.out, t.winr)) =
      some ([.bus 0x3C [0x00, 0x75, 0x00, 0x29] (.err busErr), .log busErr .winRow], some (0, 41)) := by decide

/-- A loaded buffer of program P1, in phase `P_SEND`. -/
def loaded : State :=
  { streamingAt Cfg.probe .send with len := 5, buf := Memory.ofBytes 0 [0x99, 0xF0, 0xFF, 0x00, 0x00] }

/-- F7. -/
theorem test_wdata : after (exec .wdata loaded) (fun t => (t.out, t.buf)) =
    some ([.bus 0x3C [0x40, 0xF0, 0xFF, 0x00, 0x00] .ok],
      Memory.ofBytes 0 [0x40, 0xF0, 0xFF, 0x00, 0x00]) := by decide

/-! ### The sequencer (95 section 3.3) -/

/-- Q3, Q4. -/
theorem test_remap_phase :
    after (step (stateAt Cfg.probe .remap)) (fun t => (t.st, t.ph)) = some (.poweredOn, .winCol) ∧
    after (step (stateAt cfgClear .remap)) (fun t => (t.st, t.ph)) = some (.poweredOn, .clrCol) := by decide

/-- A cleared buffer of program P2, in phase `P_CLR_SEND`, `CC` writes done. -/
def clearing (cc : Nat) (r : BusResult) : State :=
  { stateAt cfgClear .clrSend with
    len := 9, cc := cc, buf := Memory.ofBytes 1 [0, 0, 0, 0, 0, 0, 0, 0], busIn := [.returns r, .returns .ok] }

/-- Q6, Q7: the failed write is counted. -/
theorem test_clear_send :
    after (step (clearing 0 .ok)) (fun t => (t.cc, t.ph)) = some (1, .clrSend) ∧
    after (step (clearing 1 (.err busErr))) (fun t => (t.cc, t.ph)) = some (2, .winCol) := by decide

/-- Q15, Q16. -/
theorem test_clear_writes :
    ({ Cfg.probe with w := 40, h := 42, panelPayload := 8192 } : Cfg).clearWrites = 10 ∧
    ({ cfgClear with panelPayload := 8 } : Cfg).clearWrites = 1 := by decide

/-- Q8, Q9. -/
theorem test_window_then_start :
    after (step (stateAt Cfg.probe .winRow)) (fun t => (t.st, t.ph)) = some (.windowConfigured, .start) ∧
    after (step (stateAt Cfg.probe .start)) (fun t => (t.st, t.fi, t.ph)) = some (.streaming, 0, .unpack) := by decide

/-- Q10, Q11. -/
theorem test_next :
    after (step (stateAt cfgThree .next)) (fun t => (t.fi, t.ph)) = some (1, .unpack) ∧
    after (step { stateAt cfgThree .next with fi := 2 }) (fun t => (t.fi, t.ph)) = some (0, .unpack) := by decide

/-- Q13. -/
theorem test_ledt : after (step (stateAt Cfg.probe .led)) (fun t => (t.led, t.out, t.ph)) =
    some (0, [.led 0], .next) := by decide

/-- Q14. -/
theorem test_send_err :
    after (step { loaded with busIn := [.returns (.err busErr)] }) (fun t => (t.out, t.ph)) =
      some ([.bus 0x3C [0x40, 0xF0, 0xFF, 0x00, 0x00] (.err busErr), .log busErr .send], .led) := by decide

/-- Q2, P4(a): no frames, no step. -/
theorem test_cfgErr :
    (State.resetOf cfgEmpty 0 0 []).ph = .cfgErr ∧ faultOf (step (State.resetOf cfgEmpty 0 0 [])) = some .configError := by
  decide

/-- Q1. -/
theorem test_reset : (State.resetOf Cfg.probe 0 0 []).ph = .pwron ∧ (State.resetOf Cfg.probe 0 0 []).len = 1 := by decide

/-- R95: the textual form. -/
theorem test_text : instrText (.colwin 0 63) = "COLWIN 0, 63" ∧ instrText .unpkf = "UNPKF" := by decide

/-- R99: the program P1 is a blink-only deployment, and one black and one lit frame a fill-only one. -/
theorem test_degenerate :
    blinkOnly Cfg.probe = true ∧ blinkOnly cfgClear = false ∧ fillOnly cfgClear = false ∧
    fillOnly { Cfg.probe with n := 2, frm := [(0, 0xFF), (1, 0x00)] } = true := by decide

/-- R97: SEND of a Command variant is the framer operation. -/
theorem test_send_command :
    after (sendCommand (.setRemap 0x51) (stateAt Cfg.probe .remap)) (fun t => t.out) =
      some [.bus 0x3C [0x00, 0xA0, 0x51] .ok] := by decide

/-! ### Witnesses for the hypotheses of the obligations -/

theorem test_witness_ExpandMakesTwoNibblesPerByte :
    (expand 0x81)[0]? = some 0xF0 ∧ (expand 0x81)[3]? = some 0x0F := by decide
theorem test_witness_ExpansionLaw :
    hiNibble 0xF0 = 0xF ∧ loNibble 0x0F = 0xF ∧ (0x80 : Byte).getLsbD (7 - 0) = true ∧
    (0x01 : Byte).getLsbD (7 - 7) = true := by decide
theorem test_witness_ExpandIsInjective : expand 0xB0 = expand 0xB0 ∧ expand 0xB0 ≠ expand 0xB1 := by decide
theorem test_witness_PwronSendsItsCommand :
    (stateAt Cfg.probe .pwron).nextAnswer = .returns .ok ∧
    ({ stateAt Cfg.probe .pwron with busIn := [.returns (.err busErr)] } : State).nextAnswer =
      .returns (.err busErr) := by decide
theorem test_witness_RemapSendsItsCommand : (stateAt Cfg.probe .remap).nextAnswer = .returns .ok := by decide
theorem test_witness_ColwinSendsAndShadows : (stateAt Cfg.probe .winCol).nextAnswer = .returns .ok := by decide
theorem test_witness_RowwinSendsAndShadows : (stateAt Cfg.probe .winRow).nextAnswer = .returns .ok := by decide

/-- The whole capacity, and the least payload. -/
theorem test_witness_WdataSendsBuffer :
    (2 ≤ loaded.len ∧ loaded.len ≤ loaded.cfg.cap ∧ loaded.cfg.cap = 5 ∧
      [(0xF0 : Byte), 0xFF, 0x00, 0x00].length = loaded.len - 1 ∧
      (∀ j < 4, loaded.bufWritten (1 + j) = true ∧ loaded.bufRead (1 + j) = [(0xF0 : Byte), 0xFF, 0x00, 0x00][j]?) ∧ loaded.nextAnswer = .returns .ok) ∧
    after (exec .wdata { loaded with len := 2 }) (fun t => t.out) = some [.bus 0x3C [0x40, 0xF0] .ok] := by decide

/-- Each of the three ways out of the precondition, at its boundary. -/
theorem test_witness_WdataRefusesOutsidePrecondition :
    refusalOf (exec .wdata { loaded with len := 1 }) = some .wdataPrecondition ∧
    refusalOf (exec .wdata { loaded with len := 6 }) = some .wdataPrecondition ∧
    refusalOf (exec .wdata { loaded with buf := Memory.ofBytes 0 [0, 0, 0, 0] }) = some .wdataPrecondition := by decide

theorem test_witness_BusResultChangesOnlyTheTrace :
    (∃ t, exec .pwron { stateAt Cfg.probe .pwron with busIn := [.returns .ok] } = .next t) ∧
    (∃ t, exec (.remap 1) { stateAt Cfg.probe .remap with busIn := [.returns .ok] } = .next t) ∧
    (∃ t, exec (.colwin 1 2) { stateAt Cfg.probe .winCol with busIn := [.returns .ok] } = .next t) ∧
    (∃ t, exec (.rowwin 1 2) { stateAt Cfg.probe .winRow with busIn := [.returns .ok] } = .next t) ∧
    (∃ t, exec .wdata { loaded with busIn := [.returns .ok] } = .next t) :=
  ⟨⟨_, rfl⟩, ⟨_, rfl⟩, ⟨_, rfl⟩, ⟨_, rfl⟩, ⟨_, rfl⟩⟩

theorem test_witness_WriteThatNeverReturnsIsStuck :
    faultOf (exec .pwron { stateAt Cfg.probe .pwron with busIn := [.hangs] }) = some .busNeverReturns ∧
    faultOf (exec .wdata { loaded with busIn := [.hangs] }) = some .busNeverReturns := by decide

theorem test_witness_CommandFrame :
    (∃ t, exec .pwron (stateAt Cfg.probe .pwron) = .next t) ∧ (∃ t, exec (.remap 1) (stateAt Cfg.probe .remap) = .next t) ∧
    (∃ t, exec (.colwin 1 2) (stateAt Cfg.probe .winCol) = .next t) ∧
    ∃ t, exec (.rowwin 1 2) (stateAt Cfg.probe .winRow) = .next t :=
  ⟨⟨_, rfl⟩, ⟨_, rfl⟩, ⟨_, rfl⟩, ⟨_, rfl⟩⟩

theorem test_witness_WdataFrame : ∃ t, exec .wdata loaded = .next t := ⟨_, rfl⟩

/-- The first and the last frame. -/
theorem test_witness_UnpkfUnpacksTheFrame :
    (stateAt cfgThree .unpack).cfg.configOK = true ∧ (stateAt cfgThree .unpack).fi < cfgThree.n ∧
    ({ stateAt cfgThree .unpack with fi := 2 } : State).fi < cfgThree.n := by decide

/-- The corner pixels of program P2's picture: `F` at the left and the right of row 0, `0` below them. -/
theorem test_witness_UnpkfKeepsEveryPixel :
    packedPixel cfgClear 0 0 0 = some true ∧ packedPixel cfgClear 0 7 0 = some true ∧
    packedPixel cfgClear 0 0 1 = some false ∧ packedPixel cfgClear 0 7 1 = some false := by decide

theorem test_witness_UnpkfFrame : ∃ t, exec .unpkf (stateAt cfgClear .unpack) = .next t := ⟨_, rfl⟩

/-- The offsets at both ends of the filled run. -/
theorem test_witness_ZfillZeroesThePayload :
    after (exec .zfill (stateAt Cfg.probe .clrFill))
      (fun t => (t.bufWritten 0, t.bufRead 1, t.bufRead 4, t.bufRead 5)) =
      some (false, some 0, some 0, none) := by decide

theorem test_witness_StartEntersStreaming : 1 ≤ (stateAt Cfg.probe .start).cfg.n := by decide
theorem test_witness_NextAdvancesModuloN :
    1 ≤ cfgThree.n ∧ ({ stateAt cfgThree .next with fi := 2 } : State).fi + 1 = cfgThree.n ∧
    ({ stateAt cfgThree .next with fi := 1 } : State).fi + 1 < cfgThree.n := by decide
theorem test_witness_EmptySequenceStops : (stateAt cfgEmpty .start).cfg.n = 0 := by decide

/-- The three outcomes of an operation, as a step shows them. -/
theorem test_witness_StepRunsTheSelectedOperation :
    (loaded.rst = false ∧ selectOp loaded.cfg loaded.ph = some .wdata ∧ ∃ t, exec .wdata loaded = .next t) ∧
    faultOf (exec .wdata { loaded with busIn := [.hangs] }) = some .busNeverReturns ∧
    refusalOf (exec .wdata { loaded with len := 1 }) = some .wdataPrecondition :=
  ⟨⟨rfl, rfl, _, rfl⟩, by decide, by decide⟩

/-- A step in each phase that has one. -/
theorem test_witness_StepFollowsThePhaseGraph :
    [Phase.pwron, .remap, .clrCol, .clrRow, .clrFill, .winCol, .winRow, .start, .unpack, .led, .next].map
      (fun p => after (step (stateAt cfgClear p)) (fun t => t.ph)) =
      [some .remap, some .clrCol, some .clrRow, some .clrFill, some .clrSend, some .winRow, some .start, some .unpack,
       some .send, some .next, some .unpack] ∧
    after (step loaded) (fun t => t.ph) = some .led ∧ loaded.rst = false := by decide

/-- The writes of `ST`, `CC` and `FI` in the phases that make them. -/
theorem test_witness_StepWritesProtocolAndCounters :
    after (step { stateAt cfgClear .clrFill with cc := 7 }) (fun t => t.cc) = some 0 ∧
    after (step (clearing 0 .ok)) (fun t => t.cc) = some 1 ∧
    after (step { stateAt cfgThree .start with fi := 2 }) (fun t => t.fi) = some 0 := by decide

theorem test_witness_DecodedPhaseIsTheOperationRun :
    decode cfgThree (.phaseCode Phase.next.code) = .ok (Request.mk .next []) ∧ selectOp cfgThree .next = some .next := by
  decide

theorem test_witness_EmittedBytesDecodeBack :
    loaded.cfg.opcodesDistinct = true ∧ loaded.rst = false ∧ (∃ t, step loaded = .next t) ∧
    after (step loaded) (fun t => t.out) = some [.bus 0x3C [0x40, 0xF0, 0xFF, 0x00, 0x00] .ok] :=
  ⟨by decide, rfl, ⟨_, rfl⟩, by decide⟩

theorem test_witness_ConfigErrorHasNoStep :
    (stateAt cfgEmpty .cfgErr).rst = false ∧ (stateAt cfgEmpty .cfgErr).ph = .cfgErr := by decide

/-- A reset in the middle of the frame loop, under a good and under a bad configuration. -/
theorem test_witness_ResetReplacesTheState :
    ({ loaded with rst := true } : State).rst = true ∧
    after (step { loaded with rst := true }) (fun t => (t.ph, t.st, t.len)) = some (.pwron, .uninitialized, 1) ∧
    after (step { stateAt cfgEmpty .cfgErr with rst := true }) (fun t => t.ph) = some .cfgErr := by decide

theorem test_witness_StepKeepsConfiguration :
    (∃ t, step loaded = .next t) ∧ ∃ t, step { loaded with rst := true } = .next t := ⟨⟨_, rfl⟩, ⟨_, rfl⟩⟩

theorem test_witness_TraceOnlyGrows :
    loaded.rst = false ∧ ∃ t, step { loaded with busIn := [.returns (.err busErr)] } = .next t := ⟨rfl, _, rfl⟩

/-- Offsets on both sides of `CAP`; an offset a step leaves unwritten. -/
theorem test_witness_BufferIsCapBytes :
    loaded.cfg.cap = 5 ∧ (loaded.bufRead 4).isSome = true ∧ (loaded.bufRead 5).isSome = false ∧
    (stateAt Cfg.probe .clrFill).rst = false ∧
    after (step (stateAt Cfg.probe .clrFill)) (fun t => t.bufWritten 0) = some false := by decide

/-- A byte of `BUF` that nothing has written since reset is the byte that reset drew. -/
theorem test_buf_after_reset :
    (State.resetOf Cfg.probe 7 0 []).bufRead 4 = some (Config.bufAtReset 7 4) ∧
    (State.resetOf Cfg.probe 7 0 []).bufRead 5 = none := ⟨rfl, rfl⟩

/-! States of the invariant, one for each kind of phase. -/

theorem test_inv_pwron : (stateAt cfgClear .pwron).Inv := by constructor <;> decide
theorem test_inv_clrFill : (stateAt cfgClear .clrFill).Inv := by constructor <;> decide
theorem test_inv_clrSend : (clearing 1 .ok).Inv := by constructor <;> decide
theorem test_inv_winRow : ({ stateAt cfgClear .winRow with winc := some (4, 7) } : State).Inv := by
  constructor <;> decide
theorem test_inv_start : (streamingAt cfgClear .start).Inv := by constructor <;> decide
theorem test_inv_unpack : (streamingAt cfgClear .unpack).Inv := by constructor <;> decide
theorem test_inv_send : loaded.Inv := by constructor <;> decide
theorem test_inv_next : ({ streamingAt cfgThree .next with fi := 2 } : State).Inv := by constructor <;> decide
theorem test_inv_cfgErr : (stateAt cfgEmpty .cfgErr).Inv := by constructor <;> decide

theorem test_witness_StepKeepsTheInvariant :
    loaded.Inv ∧ (∃ t, step loaded = .next t) ∧ (clearing 1 .ok).Inv ∧ ∃ t, step (clearing 1 .ok) = .next t :=
  ⟨test_inv_send, ⟨_, rfl⟩, test_inv_clrSend, _, rfl⟩

theorem test_witness_MachineNeverHalts : loaded.Inv ∧ loaded.ph ≠ .cfgErr ∧ loaded.nextAnswer = .returns .ok :=
  ⟨test_inv_send, by decide, by decide⟩

/-- Both stops, each in a state of the invariant. -/
theorem test_witness_OnlyTheTwoNamedStops :
    ((stateAt cfgEmpty .cfgErr).Inv ∧ faultOf (step (stateAt cfgEmpty .cfgErr)) = some .configError) ∧
    ({ loaded with busIn := [.hangs] } : State).Inv ∧
    faultOf (step { loaded with busIn := [.hangs] }) = some .busNeverReturns :=
  ⟨⟨test_inv_cfgErr, by decide⟩, by constructor <;> decide, by decide⟩

theorem test_witness_StepKeepsBufferCanonical :
    (∃ t, step loaded = .next t) ∧ loaded.buf.wf = true ∧ loaded.buf.below loaded.cfg.cap = true :=
  ⟨⟨_, rfl⟩, by decide, by decide⟩

theorem test_witness_StepKeepsControlBytes :
    ({ loaded with out := [.bus 0x3C [0x00, 0xAF] .ok] } : State).framedOut = true ∧
    (∃ t, step { loaded with out := [.bus 0x3C [0x00, 0xAF] .ok] } = .next t) ∧
    ({ loaded with out := [.bus 0x3C [0x80, 0xAF] .ok] } : State).framedOut = false :=
  ⟨by decide, ⟨_, rfl⟩, by decide⟩

theorem test_witness_ProtocolNeverMovesBack :
    (stateAt cfgClear .pwron).Inv ∧ (stateAt cfgClear .pwron).rst = false ∧
    ∃ t, step (stateAt cfgClear .pwron) = .next t := ⟨test_inv_pwron, rfl, _, rfl⟩

theorem test_witness_WindowIsNotChangedAgain :
    ((streamingAt cfgClear .start).Inv ∧ (streamingAt cfgClear .start).st = .windowConfigured ∧
      ∃ t, step (streamingAt cfgClear .start) = .next t) ∧
    loaded.Inv ∧ loaded.rst = false ∧ loaded.st = .streaming ∧ ∃ t, step loaded = .next t :=
  ⟨⟨test_inv_start, rfl, _, rfl⟩, test_inv_send, rfl, rfl, _, rfl⟩

/-- The ranges issued by the two window commands of program P1, all `Ok`. -/
def windowed : State :=
  { streamingAt Cfg.probe .start with
    out := [.bus 0x3C [0x00, 0x15, 0x00, 0x03] .ok, .bus 0x3C [0x00, 0x75, 0x00, 0x00] .ok] }

theorem test_witness_ShadowWindowIsTheObservedOne :
    windowed.ShadowTrue ∧ windowed.cfg.opcodesDistinct = true ∧ windowed.allOk = true ∧ ∃ t, step windowed = .next t :=
  ⟨fun _ _ => by decide, by decide, by decide, _, rfl⟩

/-- The same state but for one bus result and its log line. -/
theorem test_witness_BusResultsDoNotSteer :
    State.SameButResults { loaded with out := [.bus 0x3C [0x00, 0xAF] .ok] }
      { loaded with out := [.bus 0x3C [0x00, 0xAF] (.err busErr), .log busErr .pwron],
                    busIn := [.returns (.err busErr)], drawn := 9 } ∧
    (∃ t, step { loaded with out := [.bus 0x3C [0x00, 0xAF] .ok] } = .next t) ∧
    loaded.nextAnswer = .returns .ok ∧
    ({ loaded with busIn := [.returns (.err busErr)] } : State).nextAnswer = .returns (.err busErr) :=
  ⟨⟨rfl, by decide⟩, ⟨_, rfl⟩, by decide, by decide⟩

theorem test_witness_FrameLoopPass :
    (streamingAt cfgClear .unpack).Inv ∧ (streamingAt cfgClear .unpack).rst = false ∧
    (streamingAt cfgClear .unpack).ph = .unpack ∧ (streamingAt cfgClear .unpack).busIn = [.returns .ok] :=
  ⟨test_inv_unpack, rfl, rfl, rfl⟩

/-- Two frames, one bus result for each. -/
theorem test_witness_CycleReturnsToFrameZero :
    ({ streamingAt cfgClear .unpack with busIn := [.returns .ok, .returns (.err busErr)] } : State).Inv ∧
    ({ streamingAt cfgClear .unpack with busIn := [.returns .ok, .returns (.err busErr)] } : State).BusReturns
      [.ok, .err busErr] ∧ [BusResult.ok, .err busErr].length = cfgClear.n :=
  ⟨by constructor <;> decide, ⟨[], rfl⟩, rfl⟩

theorem test_witness_ClearSendsExactlyClearWrites :
    ({ stateAt cfgClear .clrFill with busIn := [.returns .ok, .returns (.err busErr)] } : State).Inv ∧
    ({ stateAt cfgClear .clrFill with busIn := [.returns .ok, .returns (.err busErr)] } : State).BusReturns
      [.ok, .err busErr] ∧ [BusResult.ok, .err busErr].length = cfgClear.clearWrites :=
  ⟨by constructor <;> decide, ⟨[], rfl⟩, by decide⟩

theorem test_witness_ClearCoversThePanel :
    cfgClear.configOK = true ∧ cfgClear.clearWrites * cfgClear.p = 16 ∧ cfgClear.panelPayload = 10 := by decide

/-- Without and with the clear. -/
theorem test_witness_StartupRunsItsSequence :
    (Cfg.probe.configOK = true ∧ [BusResult.ok, .ok, .ok, .err busErr].length =
      4 + (if Cfg.probe.clearEn then 2 + Cfg.probe.clearWrites else 0)) ∧
    cfgClear.configOK = true ∧ (List.replicate 8 BusResult.ok).length =
      4 + (if cfgClear.clearEn then 2 + cfgClear.clearWrites else 0) := by decide

/-- The start-up of program P2, as its listing gives it. -/
theorem test_startup_listing :
    (pseudoStartup cfgClear).map instrText =
      ["PWRON", "REMAP 81", "COLWIN 0, 63", "ROWWIN 0, 127", "ZFILL", "WDATA", "WDATA", "COLWIN 4, 7", "ROWWIN 10, 11",
       "START"] := by decide

/-- The least and the greatest payload, and a command. -/
theorem test_witness_DecodeEncodeRoundTrip :
    Cfg.probe.opcodesDistinct = true ∧
    (Request.mk .wdata [0xFF]).wf Cfg.probe = true ∧ (Request.mk .wdata [1, 2, 3, 4]).wf Cfg.probe = true ∧
    encode Cfg.probe (Request.mk .wdata [0xFF]) = some (.transaction [0x40, 0xFF]) ∧
    (Request.mk (.colwin 0 255) []).wf Cfg.probe = true ∧
    encode Cfg.probe (Request.mk (.colwin 0 255) []) = some (.transaction [0x00, 0x15, 0x00, 0xFF]) := by decide

theorem test_witness_DecodedTransactionEncodesBack :
    decode Cfg.probe (.transaction [0x40, 0x00]) = .ok (Request.mk .wdata [0x00]) := by decide

theorem test_witness_DecoderRejectsByName :
    (0x41 : Byte) ≠ 0x00 ∧ (0x41 : Byte) ≠ 0x40 ∧ 4 ≤ [(0xAF : Byte), 0, 0, 0].length := by decide

theorem test_witness_PhaseCodesAreReadBack : Phase.ofCode 15 = some .cfgErr ∧ Phase.ofCode 0 = some .pwron := by decide

theorem test_witness_LengthsMatchIffWidthIsMultipleOfEight :
    1 ≤ Cfg.probe.h ∧ Cfg.probe.lengthsMatch = true ∧ ({ Cfg.probe with w := 4 } : Cfg).lengthsMatch = false := by decide

/-- A configuration in which COLWIN and REMAP have one opcode byte, as R10 and R93 admit. -/
def cfgShared : Cfg := { Cfg.probe with opcRemap := 0x15 }

/-- A controller all of whose settings are known. -/
def knownView : ControllerView where
  powered := .is ()
  remap := .is 0x51
  cols := .is (0, 3)
  rows := .is (0, 0)

/-- The prefix `[0x00, 0x15, 9]` of a failed COLWIN reads as REMAP 9: the remap setting is then unknown too. -/
theorem test_observe_shared_opcode :
    observe cfgShared knownView (.bus 0x3C [0x00, 0x15, 0x09, 0x0A] (.err busErr)) =
      { knownView with remap := .unknown, cols := .unknown } ∧
    observe Cfg.probe knownView (.bus 0x3C [0x00, 0x15, 0x09, 0x0A] (.err busErr)) =
      { knownView with cols := .unknown } ∧
    observe Cfg.probe knownView (.bus 0x3C [0x00, 0x15, 0x09, 0x0A] .ok) = { knownView with cols := .is (9, 10) } := by
  decide

/-- A prefix that reads as a command, one cut short, and the whole after `Ok`. -/
theorem test_witness_ObserverAdmitsEveryPrefix :
    knownView.Admits knownView ∧
    ([0x00, 0x15, 0x09] ∈ possiblyReceived [0x00, 0x15, 0x09, 0x0A] (.err busErr) ∧
      CouldLeave cfgShared knownView [0x00, 0x15, 0x09] { knownView with remap := .is 0x09 }) ∧
    ([0x00, 0x15] ∈ possiblyReceived [0x00, 0x15, 0x09, 0x0A] (.err busErr) ∧
      CouldLeave Cfg.probe knownView [0x00, 0x15] { knownView with cols := .is (9, 3) }) ∧
    CouldLeave Cfg.probe knownView [0x00, 0x15, 0x09, 0x0A] { knownView with cols := .is (9, 10) } :=
  ⟨⟨.inr rfl, .inr rfl, .inr rfl, .inr rfl⟩, ⟨by decide, rfl⟩, ⟨by decide, rfl⟩, rfl⟩

theorem test_witness_FailedWriteLeavesAPrefix :
    possiblyReceived [0x00, 0xAF] .ok = [[0x00, 0xAF]] ∧
    possiblyReceived [0x00, 0xAF] (.err busErr) = [[], [0x00], [0x00, 0xAF]] := by decide

end Sys2Proof.Tests
end

section
/-! Proofs/Unpacker.lean: EXPAND (R111, R112) nibble by nibble, and UNPKF (R113) on a frame of an admitted
configuration. -/
namespace Sys2Proof.Machine

/-! ### EXPAND -/

@[simp] theorem hiNibble_pixelPair (left right : Bool) : hiNibble (pixelPair left right) = rep4 left := by
  cases left <;> cases right <;> rfl

@[simp] theorem loNibble_pixelPair (left right : Bool) : loNibble (pixelPair left right) = rep4 right := by
  cases left <;> cases right <;> rfl

/-- Two pixels make one of the four bytes whose nibbles are `0x0` or `0xF` (R111). -/
theorem pixelPair_mem (left right : Bool) :
    pixelPair left right = 0x00 ∨ pixelPair left right = 0x0F ∨ pixelPair left right = 0xF0 ∨
      pixelPair left right = 0xFF := by
  cases left <;> cases right <;> decide

/-- Output byte `m` of EXPAND pairs the pixels of bits `7 - 2m` and `6 - 2m` (R111). -/
theorem expand_getElem? (b : Byte) {m : Nat} (hm : m < 4) :
    (expand b)[m]? = some (pixelPair (b.getLsbD (7 - 2 * m)) (b.getLsbD (6 - 2 * m))) := by
  match m, hm with
  | 0, _ | 1, _ | 2, _ | 3, _ => rfl

/-- Settles O1: each output byte is a pair of pixels, and the three corner cases are evaluated. -/
theorem expandMakesTwoNibblesPerByte : Obligations.ExpandMakesTwoNibblesPerByte := by
  unfold Obligations.ExpandMakesTwoNibblesPerByte
  refine ⟨fun b => ⟨expand_length b, fun m hm => ?_⟩, by decide, by decide, by decide⟩
  exact ⟨_, expand_getElem? b hm, rfl, hiNibble_pixelPair _ _, loNibble_pixelPair _ _, pixelPair_mem _ _⟩

/-- Settles O2: nibble `2j` is the high one and nibble `2j + 1` the low one of output byte `j`. -/
theorem expansionLaw : Obligations.ExpansionLaw := by
  unfold Obligations.ExpansionLaw
  intro b k hk
  refine ⟨_, expand_getElem? b (by omega), ?_⟩
  obtain ⟨j, rfl | rfl⟩ := Nat.even_or_odd' k
  · simp [rep4]
  · rw [if_neg (by omega), loNibble_pixelPair, show 6 - 2 * ((2 * j + 1) / 2) = 7 - (2 * j + 1) by omega, rep4]

/-! ### UNPKF -/

/-- If UNPKF answers a next state, its loop answered the new `BUF`, and it wrote `BUF` and `LEN` only (R113). -/
theorem execUnpkf_eq_next {s t : State} :
    execUnpkf s = .next t ↔
      ∃ m, unpackBytes s.cfg (s.fi * s.cfg.l) s.cfg.l 0 s.buf = .ok m ∧
        t = { s with buf := m, len := 1 + 4 * s.cfg.l } := by
  unfold execUnpkf
  cases unpackBytes s.cfg (s.fi * s.cfg.l) s.cfg.l 0 s.buf <;> simp [State.setBuf, State.setLen, eq_comm]

/-- The loop of UNPKF never leaves `FROM` or `BUF` in a configuration R10 admits (R66). -/
theorem unpackBytes_frame_isOk {s : State} (hok : s.cfg.configOK = true) (hfi : s.fi < s.cfg.n) :
    ∃ m, unpackBytes s.cfg (s.fi * s.cfg.l) s.cfg.l 0 s.buf = .ok m := by
  refine unpackBytes_isOk s.buf (fun j hj => ?_) (by rw [Cfg.cap_of_ok hok, Nat.zero_add])
  rw [Nat.zero_add]
  exact Cfg.frame_byte_of_ok hok hfi hj

/-- Settles O15: the loop completes, and what it leaves in `BUF` is read back offset by offset; offsets `1` to `4L`
lie below `CAP = 1 + 4L`. -/
theorem unpkfUnpacksTheFrame : Obligations.UnpkfUnpacksTheFrame := by
  unfold Obligations.UnpkfUnpacksTheFrame
  refine ⟨fun _ => rfl, fun s hok hfi => ?_⟩
  obtain ⟨m, hm⟩ := unpackBytes_frame_isOk hok hfi
  obtain ⟨hframe, hrest, -, -⟩ := unpackBytes_ok hm
  have hzero : m.read 0 = s.buf.read 0 := hrest 0 (.inl (by omega))
  refine ⟨_, execUnpkf_eq_next.2 ⟨m, hm, rfl⟩, rfl, fun k hk => ?_, bufRead_congr rfl rfl hzero,
    bufWritten_congr hzero⟩
  obtain ⟨b, hb, hout⟩ := hframe k hk
  rw [Nat.zero_add] at hb hout
  refine ⟨b, hb, fun i hi => ?_⟩
  have hbyte := (hout i hi).trans (expand_getElem? b hi)
  have hcap : 1 + 4 * k + i < s.cfg.cap := by rw [Cfg.cap_of_ok hok]; omega
  refine ⟨by simp [State.bufWritten, hbyte], ?_⟩
  rw [expand_getElem? b hi]
  exact bufRead_of_listed hcap hbyte

end Sys2Proof.Machine
end

section
/-! Proofs/Framer.lean: the five framer operations (R131 to R135) share one shape, said once in `exec_framer_eq_next`:
the operation's own writes and one returned bus write of its transaction. Neither the writes nor the transaction looks
at the bus's answers (R137). -/
namespace Sys2Proof.Machine

/-! ### The shape of a framer operation -/

/-- What a framer operation writes besides its bus write (R131 to R135). -/
def framerWrites : Instr → State → State
  | .colwin a e, s => s.setWinc (a, e)
  | .rowwin a e, s => s.setWinr (a, e)
  | .wdata, s => s.setBuf (s.buf.write 0 ctrlData)
  | .pwron, s | .remap _, s | .unpkf, s | .zfill, s | .start, s | .ledt, s | .next, s | .expand _, s => s

/-- The operation is the framer's, its precondition holds, and it hands `bytes` to the bus (R131 to R135). -/
def Transmits (s : State) (bytes : List Byte) : Instr → Prop
  | .pwron => bytes = formatC0 s.cfg.opcPwron
  | .remap a => bytes = formatC1 s.cfg.opcRemap a
  | .colwin a e => bytes = formatC2 s.cfg.opcColwin a e
  | .rowwin a e => bytes = formatC2 s.cfg.opcRowwin a e
  | .wdata => 2 ≤ s.len ∧ s.len ≤ s.cfg.cap ∧ (∀ a, 1 ≤ a → a < s.len → s.bufWritten a = true) ∧
      ∃ payload, payload.length = s.len - 1 ∧ (∀ j < payload.length, s.bufRead (1 + j) = payload[j]?) ∧
        bytes = formatD payload
  | .unpkf | .zfill | .start | .ledt | .next | .expand _ => False

/-- A write the bus does not look at may as well come before the bus write. -/
theorem mapNext_xmit {f : State → State} {bytes : List Byte} {s : State} (hn : (f s).nextAnswer = s.nextAnswer)
    (ha : ∀ r, f (afterWrite bytes r s) = afterWrite bytes r (f s)) :
    mapNext f (xmit bytes s) = xmit bytes (f s) := by
  unfold xmit
  rw [hn]
  cases s.nextAnswer <;> simp [ha]

theorem execColwin_eq_xmit (a e : Byte) (s : State) :
    execColwin a e s = xmit (formatC2 s.cfg.opcColwin a e) (s.setWinc (a, e)) :=
  mapNext_xmit rfl fun r => by cases r <;> rfl

theorem execRowwin_eq_xmit (a e : Byte) (s : State) :
    execRowwin a e s = xmit (formatC2 s.cfg.opcRowwin a e) (s.setWinr (a, e)) :=
  mapNext_xmit rfl fun r => by cases r <;> rfl

/-- `xmit_eq_next` with the bytes sent under the quantifier. -/
theorem xmit_eq_next_bytes {sent : List Byte} {s t : State} :
    xmit sent s = .next t ↔
      ∃ bytes r, bytes = sent ∧ s.nextAnswer = .returns r ∧ t = afterWrite bytes r s := by
  rw [xmit_eq_next]
  simp only [exists_and_left, exists_eq_left]

/-- If a framer operation answers a next state, its precondition held, the bus returned, and the state is the one its
own writes and the bus write leave (R131 to R135). -/
theorem exec_framer_eq_next {s t : State} {i : Instr}
    (hi : i = .pwron ∨ (∃ a, i = .remap a) ∨ (∃ a e, i = .colwin a e) ∨ (∃ a e, i = .rowwin a e) ∨ i = .wdata) :
    exec i s = .next t ↔
      ∃ bytes r, Transmits s bytes i ∧ s.nextAnswer = .returns r ∧ t = afterWrite bytes r (framerWrites i s) := by
  obtain rfl | ⟨a, rfl⟩ | ⟨a, e, rfl⟩ | ⟨a, e, rfl⟩ | rfl := hi
  · exact xmit_eq_next_bytes
  · exact xmit_eq_next_bytes
  · rw [exec, execColwin_eq_xmit]
    exact xmit_eq_next_bytes
  · rw [exec, execRowwin_eq_xmit]
    exact xmit_eq_next_bytes
  · rw [exec, execWdata_eq_next]
    constructor
    · rintro ⟨h2, hc, hw, payload, r, hl, hp, hr, ht⟩
      exact ⟨_, r, ⟨h2, hc, hw, payload, hl, hp, rfl⟩, hr, ht⟩
    · rintro ⟨_, r, ⟨h2, hc, hw, payload, hl, hp, rfl⟩, hr, ht⟩
      exact ⟨h2, hc, hw, payload, r, hl, hp, hr, ht⟩

/-! ### The bus's answers (R137) -/

/-- Which transaction is sent does not depend on the bus's answers. -/
theorem transmits_busIn (s : State) (q : List BusAnswer) (bytes : List Byte) (i : Instr) :
    Transmits { s with busIn := q } bytes i ↔ Transmits s bytes i := by
  cases i <;> rfl

/-- What a framer operation leaves when the bus's next answer is `r`: the result stands in the trace only. -/
theorem afterWrite_framerWrites (i : Instr) (s : State) (bytes : List Byte) (r : BusResult) (q : List BusAnswer) :
    afterWrite bytes r (framerWrites i { s with busIn := .returns r :: q }) =
      { framerWrites i s with
        out := s.out ++ busEvents s bytes r, busIn := q, drawn := (framerWrites i s).drawn + 1 } := by
  rw [afterWrite_eq]
  cases i <;> rfl

/-- Settles O11: the same transaction is sent whatever the bus answers, and `afterWrite_framerWrites` shows the result
in `OUT` only. -/
theorem busResultChangesOnlyTheTrace : Obligations.BusResultChangesOnlyTheTrace := by
  unfold Obligations.BusResultChangesOnlyTheTrace
  intro s i r r' q t hi ht
  obtain ⟨bytes, r₀, hsend, ⟨⟩, rfl⟩ := (exec_framer_eq_next hi).1 ht
  rw [transmits_busIn] at hsend
  refine ⟨bytes, by rw [afterWrite_framerWrites], ?_⟩
  refine (exec_framer_eq_next hi).2 ⟨bytes, r', (transmits_busIn ..).2 hsend, rfl, ?_⟩
  simp only [afterWrite_framerWrites]

/-! ### The two window commands -/

/-- Settles O7: COLWIN's transaction needs no precondition, so the bus's return is all it waits for. -/
theorem colwinSendsAndShadows : Obligations.ColwinSendsAndShadows := by
  unfold Obligations.ColwinSendsAndShadows
  intro s a e r hr
  exact (exec_framer_eq_next (.inr (.inr (.inl ⟨a, e, rfl⟩)))).2 ⟨_, r, rfl, hr, by rw [afterWrite_eq]; rfl⟩

/-- Settles O8: as COLWIN, with `WINR`. -/
theorem rowwinSendsAndShadows : Obligations.RowwinSendsAndShadows := by
  unfold Obligations.RowwinSendsAndShadows
  intro s a e r hr
  exact (exec_framer_eq_next (.inr (.inr (.inr (.inl ⟨a, e, rfl⟩))))).2 ⟨_, r, rfl, hr, by rw [afterWrite_eq]; rfl⟩

end Sys2Proof.Machine
end

section
/-! Proofs/Sequencer.lean: the two operations of the sequencer that close a pass, LEDT (R163) and NEXT (R164). -/
namespace Sys2Proof.Machine

@[simp] theorem Cfg.hasFrames_eq_true {c : Cfg} : c.hasFrames = true ↔ 1 ≤ c.n := decide_eq_true_iff

/-! ### LEDT (R163) -/

/-- One bit differs from its complement, so LEDT always changes `LED`. -/
theorem ledComplement_ne (v : BitVec 1) : ledComplement v ≠ v := by
  revert v
  decide

/-- Settles O20: LEDT's writes are R163's field by field, and the level it emits is a new one. -/
theorem ledtToggles : Obligations.LedtToggles := by
  unfold Obligations.LedtToggles
  exact ⟨fun _ => rfl, fun s => ⟨rfl, ledComplement_ne s.led⟩⟩

/-! ### NEXT (R164) -/

/-- From the last frame NEXT goes back to frame 0. -/
theorem frameAfter_of_last {n fi : Nat} (h : fi + 1 = n) : frameAfter n fi = 0 := by
  rw [frameAfter, h, Nat.mod_self]

/-- From an earlier frame NEXT goes to the following one. -/
theorem frameAfter_of_lt {n fi : Nat} (h : fi + 1 < n) : frameAfter n fi = fi + 1 := Nat.mod_eq_of_lt h

/-- With at least one frame NEXT completes, and writes `FI` and `PH` only. -/
theorem execNext_of_frames {s : State} (hn : 1 ≤ s.cfg.n) :
    execNext s = .next { s with fi := frameAfter s.cfg.n s.fi, ph := .unpack } :=
  if_pos (Cfg.hasFrames_eq_true.2 hn)

/-- Settles O21: NEXT completes by `execNext_of_frames`, and `frameAfter` wraps from the last frame only. -/
theorem nextAdvancesModuloN : Obligations.NextAdvancesModuloN := by
  unfold Obligations.NextAdvancesModuloN
  exact ⟨fun _ => rfl, fun s hn => ⟨execNext_of_frames hn, frameAfter_of_last, frameAfter_of_lt⟩⟩

end Sys2Proof.Machine
end

section
/-! Proofs/Operations.lean: what each operation does when it answers a next state, said once in `exec_eq_next`; the
frames of the operations, and the rows of the framer and the unpacker, follow from it. -/
namespace Sys2Proof.Machine

/-! ### What an operation does -/

/-- What the operation leaves, one constructor a shape: a framer operation hands its bytes to the bus and keeps its own
writes; an internal operation makes its writes. -/
inductive Effect (s : State) : Instr → State → Prop
  | transmit {i : Instr} {bytes : List Byte} {r : BusResult} (send : Transmits s bytes i)
      (answer : s.nextAnswer = .returns r) :
      Effect s i { s with
        winc := (framerWrites i s).winc, winr := (framerWrites i s).winr, buf := (framerWrites i s).buf,
        out := s.out ++ busEvents s bytes r, busIn := s.busIn.tail, drawn := s.drawn + 1 }
  | unpkf {m : Memory} (loop : unpackBytes s.cfg (s.fi * s.cfg.l) s.cfg.l 0 s.buf = .ok m) :
      Effect s .unpkf { s with buf := m, len := 1 + 4 * s.cfg.l }
  | zfill {m : Memory} (fill : writeRun s.cfg 1 (List.replicate (s.cfg.cap - 1) 0x00) s.buf = .ok m) :
      Effect s .zfill { s with buf := m, len := s.cfg.cap }
  | start (frames : 1 ≤ s.cfg.n) : Effect s .start { s with fi := 0, st := .streaming, ph := .unpack }
  | ledt : Effect s .ledt { s with
      led := ledComplement s.led, out := s.out ++ [.led (ledComplement s.led)], ph := .next }
  | next (frames : 1 ≤ s.cfg.n) : Effect s .next { s with fi := frameAfter s.cfg.n s.fi, ph := .unpack }
  | expand (b : Byte) : Effect s (.expand b) { s with shown := expand b }

theorem afterWrite_framerWrites_eq (i : Instr) (s : State) (bytes : List Byte) (r : BusResult) :
    afterWrite bytes r (framerWrites i s) = { s with
      winc := (framerWrites i s).winc, winr := (framerWrites i s).winr, buf := (framerWrites i s).buf,
      out := s.out ++ busEvents s bytes r, busIn := s.busIn.tail, drawn := s.drawn + 1 } := by
  rw [afterWrite_eq]
  cases i <;> rfl

/-- The five operations of R80 that emit a transaction. -/
theorem framer_of_transmits {s : State} {bytes : List Byte} {i : Instr} (h : Transmits s bytes i) :
    i = .pwron ∨ (∃ a, i = .remap a) ∨ (∃ a e, i = .colwin a e) ∨ (∃ a e, i = .rowwin a e) ∨ i = .wdata := by
  cases i <;> simp_all [Transmits]

theorem effect_of_framer_next {s t : State} {i : Instr}
    (hi : i = .pwron ∨ (∃ a, i = .remap a) ∨ (∃ a e, i = .colwin a e) ∨ (∃ a e, i = .rowwin a e) ∨ i = .wdata)
    (h : exec i s = .next t) : Effect s i t := by
  obtain ⟨bytes, r, hsend, hr, rfl⟩ := (exec_framer_eq_next hi).1 h
  rw [afterWrite_framerWrites_eq]
  exact .transmit hsend hr

theorem execZfill_eq_next {s t : State} :
    execZfill s = .next t ↔
      ∃ m, writeRun s.cfg 1 (List.replicate (s.cfg.cap - 1) 0x00) s.buf = .ok m ∧
        t = { s with buf := m, len := s.cfg.cap } := by
  unfold execZfill
  cases writeRun s.cfg 1 (List.replicate (s.cfg.cap - 1) 0x00) s.buf <;>
    simp [State.setBuf, State.setLen, eq_comm]

theorem execStart_of_frames {s : State} (hn : 1 ≤ s.cfg.n) :
    execStart s = .next { s with fi := 0, st := .streaming, ph := .unpack } :=
  if_pos (Cfg.hasFrames_eq_true.2 hn)

theorem execStart_of_empty {s : State} (hn : s.cfg.n = 0) : execStart s = .fault .emptySequence :=
  if_neg fun h => by have := Cfg.hasFrames_eq_true.1 h; omega

theorem execNext_of_empty {s : State} (hn : s.cfg.n = 0) : execNext s = .fault .emptySequence :=
  if_neg fun h => by have := Cfg.hasFrames_eq_true.1 h; omega

/-- An operation answers a next state exactly when its effect is that state. -/
theorem exec_eq_next {i : Instr} {s t : State} : exec i s = .next t ↔ Effect s i t := by
  constructor
  · intro h
    cases i with
    | pwron => exact effect_of_framer_next (.inl rfl) h
    | remap a => exact effect_of_framer_next (.inr (.inl ⟨a, rfl⟩)) h
    | colwin a e => exact effect_of_framer_next (.inr (.inr (.inl ⟨a, e, rfl⟩))) h
    | rowwin a e => exact effect_of_framer_next (.inr (.inr (.inr (.inl ⟨a, e, rfl⟩)))) h
    | wdata => exact effect_of_framer_next (.inr (.inr (.inr (.inr rfl)))) h
    | unpkf =>
      obtain ⟨m, hm, rfl⟩ := execUnpkf_eq_next.1 h
      exact .unpkf hm
    | zfill =>
      obtain ⟨m, hm, rfl⟩ := execZfill_eq_next.1 h
      exact .zfill hm
    | start =>
      rcases Nat.eq_zero_or_pos s.cfg.n with hn | hn
      · cases (execStart_of_empty hn).symm.trans h
      · cases (execStart_of_frames hn).symm.trans h
        exact .start hn
    | ledt =>
      cases h
      exact .ledt
    | next =>
      rcases Nat.eq_zero_or_pos s.cfg.n with hn | hn
      · cases (execNext_of_empty hn).symm.trans h
      · cases (execNext_of_frames hn).symm.trans h
        exact .next hn
    | expand b =>
      cases h
      exact .expand b
  · intro h
    cases h with
    | transmit hsend hr =>
      exact (exec_framer_eq_next (framer_of_transmits hsend)).2
        ⟨_, _, hsend, hr, (afterWrite_framerWrites_eq _ _ _ _).symm⟩
    | unpkf hm => exact execUnpkf_eq_next.2 ⟨_, hm, rfl⟩
    | zfill hm => exact execZfill_eq_next.2 ⟨_, hm, rfl⟩
    | start hn => exact execStart_of_frames hn
    | ledt => rfl
    | next hn => exact execNext_of_frames hn
    | expand b => rfl

/-- A transaction and a bus that returns are all a framer operation needs. -/
theorem exec_of_transmits {i : Instr} {s : State} {bytes : List Byte} {r : BusResult} (send : Transmits s bytes i)
    (answer : s.nextAnswer = .returns r) :
    exec i s = .next { s with
      winc := (framerWrites i s).winc, winr := (framerWrites i s).winr, buf := (framerWrites i s).buf,
      out := s.out ++ busEvents s bytes r, busIn := s.busIn.tail, drawn := s.drawn + 1 } :=
  exec_eq_next.2 (.transmit send answer)

/-! ### What an operation leaves in each field -/

/-- What becomes of `BUF`'s cells under any operation: the canonical form and the bound stay, and each offset has been
written or is as before (R27, R66). -/
structure BufGrows (c : Cfg) (m m' : Memory) : Prop where
  wf : m.wf = true → m'.wf = true
  below : m.below c.cap = true → m'.below c.cap = true
  each : ∀ a, (m'.read a).isSome = true ∨ m'.read a = m.read a

theorem BufGrows.refl (c : Cfg) (m : Memory) : BufGrows c m m := ⟨id, id, fun _ => .inr rfl⟩

theorem BufGrows.write {c : Cfg} {a : Nat} (m : Memory) (b : Byte) (ha : a < c.cap) : BufGrows c m (m.write a b) := by
  refine ⟨Memory.wf_write a b, fun hm => Memory.below_write b hm ha, fun x => ?_⟩
  by_cases hx : x = a
  · subst hx
    simp
  · exact .inr (Memory.read_write_other m b hx)

theorem BufGrows.of_writeRun {c : Cfg} {a : Nat} {bs : List Byte} {m m' : Memory} (h : writeRun c a bs m = .ok m') :
    BufGrows c m m' := by
  obtain ⟨-, hread, hrest, hwf, hbelow⟩ := writeRun_ok h
  refine ⟨hwf, hbelow, fun x => ?_⟩
  by_cases hx : x < a ∨ a + bs.length ≤ x
  · exact .inr (hrest x hx)
  · have hj : x - a < bs.length := by omega
    have := hread (x - a) hj
    rw [show a + (x - a) = x by omega, List.getElem?_eq_getElem hj] at this
    exact .inl (by simp [this])

/-- Offset `1 + x` of the loop's memory is output byte `x mod 4` of packed byte `x / 4` (R113). -/
theorem unpackBytes_read {c : Cfg} {base count : Nat} {m m' : Memory} (h : unpackBytes c base count 0 m = .ok m')
    {x : Nat} (hx : x < 4 * count) :
    ∃ b, c.frm.read (base + x / 4) = some b ∧ m'.read (1 + x) = (expand b)[x % 4]? := by
  obtain ⟨b, hb, hr⟩ := (unpackBytes_ok h).1 (x / 4) (by omega)
  rw [Nat.zero_add] at hb hr
  refine ⟨b, hb, ?_⟩
  rw [← hr (x % 4) (by omega)]
  congr 1
  omega

theorem BufGrows.of_unpackBytes {c : Cfg} {base count : Nat} {m m' : Memory}
    (h : unpackBytes c base count 0 m = .ok m') : BufGrows c m m' := by
  obtain ⟨-, hrest, hwf, hbelow⟩ := unpackBytes_ok h
  refine ⟨hwf, hbelow, fun x => ?_⟩
  by_cases hx : x < 1 ∨ 1 + 4 * count ≤ x
  · exact .inr (hrest x (by omega))
  · obtain ⟨b, -, hr⟩ := unpackBytes_read h (x := x - 1) (by omega)
    rw [show 1 + (x - 1) = x by omega, expand_getElem? b (by omega)] at hr
    exact .inl (by simp [hr])

namespace Effect

variable {s t : State} {i : Instr}

theorem cfg (h : Effect s i t) : t.cfg = s.cfg := by cases h <;> rfl
theorem cc (h : Effect s i t) : t.cc = s.cc := by cases h <;> rfl
theorem rst (h : Effect s i t) : t.rst = s.rst := by cases h <;> rfl
theorem resets (h : Effect s i t) : t.resets = s.resets := by cases h <;> rfl
theorem winc (h : Effect s i t) : t.winc = (framerWrites i s).winc := by cases h <;> rfl
theorem winr (h : Effect s i t) : t.winr = (framerWrites i s).winr := by cases h <;> rfl

theorem st_of_ne (h : Effect s i t) (hi : i ≠ .start) : t.st = s.st := by
  cases h
  case start => exact absurd rfl hi
  all_goals rfl

theorem fi_of_ne (h : Effect s i t) (hs : i ≠ .start) (hn : i ≠ .next) : t.fi = s.fi := by
  cases h
  case start => exact absurd rfl hs
  case next => exact absurd rfl hn
  all_goals rfl

theorem len_of_ne (h : Effect s i t) (hu : i ≠ .unpkf) (hz : i ≠ .zfill) : t.len = s.len := by
  cases h
  case unpkf => exact absurd rfl hu
  case zfill => exact absurd rfl hz
  all_goals rfl

theorem buf (h : Effect s i t) : BufGrows s.cfg s.buf t.buf := by
  cases h with
  | transmit send _ =>
    cases i with
    | wdata =>
      obtain ⟨h2, hcap, -⟩ := send
      exact .write _ _ (by omega)
    | _ => exact .refl _ _
  | unpkf loop => exact .of_unpackBytes loop
  | zfill fill => exact .of_writeRun fill
  | start | ledt | next | expand => exact .refl _ _

/-- The trace grows by the events of one bus write, by one heartbeat, or not at all (R33, R130, R163). -/
theorem out (h : Effect s i t) :
    ∃ evs, t.out = s.out ++ evs ∧
      ((∃ bytes r, Transmits s bytes i ∧ evs = busEvents s bytes r) ∨ (∃ v, evs = [.led v]) ∨ evs = []) := by
  cases h with
  | transmit send _ => exact ⟨_, rfl, .inl ⟨_, _, send, rfl⟩⟩
  | ledt => exact ⟨_, rfl, .inr (.inl ⟨_, rfl⟩)⟩
  | unpkf | zfill | start | next | expand => exact ⟨[], by simp, .inr (.inr rfl)⟩

theorem eq_start (h : Effect s .start t) : t = { s with fi := 0, st := .streaming, ph := .unpack } := by
  cases h with
  | transmit send _ => exact send.elim
  | start => rfl

theorem eq_next (h : Effect s .next t) : t = { s with fi := frameAfter s.cfg.n s.fi, ph := .unpack } := by
  cases h with
  | transmit send _ => exact send.elim
  | next => rfl

end Effect

/-! ### The framer's rows -/

/-- Settles O5: PWRON's transaction needs no precondition. -/
theorem pwronSendsItsCommand : Obligations.PwronSendsItsCommand := by
  unfold Obligations.PwronSendsItsCommand
  intro s r hr
  exact exec_of_transmits (i := .pwron) rfl hr

/-- Settles O6: as PWRON, with the operand. -/
theorem remapSendsItsCommand : Obligations.RemapSendsItsCommand := by
  unfold Obligations.RemapSendsItsCommand
  intro s a r hr
  exact exec_of_transmits (i := .remap a) rfl hr

/-- Settles O9: the hypotheses are WDATA's precondition, offset by offset. -/
theorem wdataSendsBuffer : Obligations.WdataSendsBuffer := by
  unfold Obligations.WdataSendsBuffer
  intro s payload r h2 hcap hl hp hr
  have written : ∀ a, 1 ≤ a → a < s.len → s.bufWritten a = true := fun a h1 ha => by
    have := (hp (a - 1) (by omega)).1
    rwa [show 1 + (a - 1) = a by omega] at this
  exact exec_of_transmits (i := .wdata) ⟨h2, hcap, written, payload, hl, fun j hj => (hp j hj).2, rfl⟩ hr

/-- Settles O10: each of the three ways out of the precondition contradicts one of its parts. -/
theorem wdataRefusesOutsidePrecondition : Obligations.WdataRefusesOutsidePrecondition := by
  unfold Obligations.WdataRefusesOutsidePrecondition
  rintro s hout
  refine execWdata_refused fun ⟨h2, hcap, hw⟩ => ?_
  obtain hlow | hhigh | ⟨a, h1, ha, hnot⟩ := hout
  · omega
  · omega
  · simp [hw a h1 ha] at hnot

/-- Within WDATA's precondition there is a transaction to send: the payload is what `BUF` holds (R135). -/
theorem exists_transmits_wdata {s : State} (h2 : 2 ≤ s.len) (hcap : s.len ≤ s.cfg.cap)
    (hw : ∀ a, 1 ≤ a → a < s.len → s.bufWritten a = true) : ∃ bytes, Transmits s bytes .wdata := by
  obtain ⟨payload, hrun⟩ := readBufRun_isOk (s := s) (a := 1) (n := s.len - 1) (by omega)
  obtain ⟨hl, hp⟩ := readBufRun_eq_ok.1 hrun
  exact ⟨_, h2, hcap, hw, payload, hl, by rwa [hl], rfl⟩

/-- A framer operation is one bus call, after its own writes (R130 to R135). -/
theorem exec_eq_xmit {s : State} {bytes : List Byte} {i : Instr} (send : Transmits s bytes i) :
    exec i s = xmit bytes (framerWrites i s) := by
  cases i with
  | pwron | remap => cases send; rfl
  | colwin a e => cases send; exact execColwin_eq_xmit a e s
  | rowwin a e => cases send; exact execRowwin_eq_xmit a e s
  | wdata =>
    obtain ⟨h2, hcap, hw, payload, hl, hp, rfl⟩ := send
    exact execWdata_eq_xmit h2 hcap hw hl hp
  | unpkf | zfill | start | ledt | next | expand => exact send.elim

@[simp] theorem nextAnswer_framerWrites (i : Instr) (s : State) : (framerWrites i s).nextAnswer = s.nextAnswer := by
  cases i <;> rfl

/-- A framer operation whose write never returns is stuck in that write (R236). -/
theorem exec_of_hangs {s : State} {bytes : List Byte} {i : Instr} (send : Transmits s bytes i)
    (hang : s.nextAnswer = .hangs) : exec i s = .fault .busNeverReturns := by
  rw [exec_eq_xmit send]
  exact xmit_hangs bytes (by rwa [nextAnswer_framerWrites])

/-- Settles O12: the commands always have a transaction to send, WDATA has one within its precondition. -/
theorem writeThatNeverReturnsIsStuck : Obligations.WriteThatNeverReturnsIsStuck := by
  unfold Obligations.WriteThatNeverReturnsIsStuck
  intro s hang
  refine ⟨exec_of_hangs (i := .pwron) rfl hang, fun a => exec_of_hangs (i := .remap a) rfl hang,
    fun a e => exec_of_hangs (i := .colwin a e) rfl hang, fun a e => exec_of_hangs (i := .rowwin a e) rfl hang,
    fun h2 hcap hw => ?_⟩
  obtain ⟨bytes, send⟩ := exists_transmits_wdata h2 hcap fun a h1 ha => hw a ha h1
  exact exec_of_hangs send hang

/-! ### The frames -/

theorem framerWrites_winc_of_ne {i : Instr} (s : State) (h : ∀ a e, i ≠ .colwin a e) :
    (framerWrites i s).winc = s.winc := by
  cases i with
  | colwin a e => exact absurd rfl (h a e)
  | _ => rfl

theorem framerWrites_winr_of_ne {i : Instr} (s : State) (h : ∀ a e, i ≠ .rowwin a e) :
    (framerWrites i s).winr = s.winr := by
  cases i with
  | rowwin a e => exact absurd rfl (h a e)
  | _ => rfl

theorem framerWrites_buf_of_ne {i : Instr} (s : State) (h : i ≠ .wdata) : (framerWrites i s).buf = s.buf := by
  cases i with
  | wdata => exact absurd rfl h
  | _ => rfl

/-- Settles O13: of the shadow ranges and `BUF` a framer operation writes its own only. -/
theorem commandFrame : Obligations.CommandFrame := by
  unfold Obligations.CommandFrame
  intro s t i hi h
  cases exec_eq_next.1 h with
  | transmit =>
    have hbuf := framerWrites_buf_of_ne s (i := i) (by rintro rfl; simp at hi)
    exact ⟨rfl, rfl, rfl, rfl, rfl, rfl, rfl, framerWrites_winc_of_ne s, framerWrites_winr_of_ne s, rfl, rfl, rfl,
      fun a => ⟨bufRead_congr rfl rfl (by rw [hbuf]), bufWritten_congr (by rw [hbuf])⟩⟩
  | unpkf | zfill | start | ledt | next | expand => simp at hi

/-- Settles O14: the one store is the control byte at offset 0, which `CAP >= LEN >= 2` admits. -/
theorem wdataFrame : Obligations.WdataFrame := by
  unfold Obligations.WdataFrame
  intro s t h
  cases exec_eq_next.1 h with
  | transmit send _ =>
    obtain ⟨h2, hcap, -⟩ := send
    refine ⟨rfl, rfl, rfl, rfl, rfl, rfl, rfl, rfl, rfl, rfl, rfl, rfl, ?_, fun a ha => ⟨?_, ?_⟩⟩
    · exact bufRead_of_listed (show 0 < s.cfg.cap by omega) (Memory.read_write_same _ _ _)
    · exact bufRead_congr rfl rfl (Memory.read_write_other _ _ ha)
    · exact bufWritten_congr (Memory.read_write_other _ _ ha)

/-- Settles O17: outside the loop's range every cell of `BUF` is as before. -/
theorem unpkfFrame : Obligations.UnpkfFrame := by
  unfold Obligations.UnpkfFrame
  intro s t h
  obtain ⟨m, hm, rfl⟩ := execUnpkf_eq_next.1 h
  obtain ⟨-, hrest, -⟩ := unpackBytes_ok hm
  refine ⟨rfl, fun a ha => ?_⟩
  have hcell : m.read a = s.buf.read a := hrest a (by omega)
  exact ⟨bufRead_congr rfl rfl hcell, bufWritten_congr hcell⟩

/-- ZFILL completes; every payload offset holds zero and every other cell is as before (R114). -/
theorem execZfill_isNext (s : State) :
    ∃ m, execZfill s = .next { s with buf := m, len := s.cfg.cap } ∧
      (∀ a < s.cfg.cap, 1 ≤ a → m.read a = some 0x00) ∧ ∀ a, a < 1 ∨ s.cfg.cap ≤ a → m.read a = s.buf.read a := by
  have hcap : 1 + (s.cfg.cap - 1) = s.cfg.cap := by unfold Cfg.cap; omega
  obtain ⟨m, hm⟩ :=
    writeRun_isOk (c := s.cfg) (a := 1) (bs := List.replicate (s.cfg.cap - 1) 0x00) s.buf (by simp [hcap])
  obtain ⟨-, hread, hrest, -⟩ := writeRun_ok hm
  rw [List.length_replicate, hcap] at hrest
  refine ⟨m, execZfill_eq_next.2 ⟨m, hm, rfl⟩, fun a ha h1 => ?_, hrest⟩
  have := hread (a - 1) (by rw [List.length_replicate]; omega)
  rwa [show 1 + (a - 1) = a by omega, List.getElem?_replicate_of_lt (by omega)] at this

/-- Settles O18: `execZfill_isNext`, read through `bufRead` and `bufWritten`. -/
theorem zfillZeroesThePayload : Obligations.ZfillZeroesThePayload := by
  unfold Obligations.ZfillZeroesThePayload
  intro s
  obtain ⟨m, hm, hzero, hrest⟩ := execZfill_isNext s
  refine ⟨_, hm, rfl, fun a ha h1 => ⟨?_, bufRead_of_listed ha (hzero a ha h1)⟩, fun a ha => ?_⟩
  · simp [State.bufWritten, hzero a ha h1]
  · exact ⟨bufRead_congr rfl rfl (hrest a ha), bufWritten_congr (hrest a ha)⟩

/-! ### EXPAND and the sequencer's rows -/

theorem pixelPair_inj {l r l' r' : Bool} (h : pixelPair l r = pixelPair l' r') : l = l' ∧ r = r' := by
  revert l r l' r'
  decide

/-- Settles O3: the four output bytes give back the eight bits, two by two. -/
theorem expandIsInjective : Obligations.ExpandIsInjective := by
  unfold Obligations.ExpandIsInjective
  intro a b h
  simp only [expand, List.cons.injEq, and_true] at h
  obtain ⟨h0, h1, h2, h3⟩ := h
  obtain ⟨b7, b6⟩ := pixelPair_inj h0
  obtain ⟨b5, b4⟩ := pixelPair_inj h1
  obtain ⟨b3, b2⟩ := pixelPair_inj h2
  obtain ⟨b1, b0⟩ := pixelPair_inj h3
  refine BitVec.eq_of_getLsbD_eq fun k hk => ?_
  interval_cases k <;> assumption

/-- No phase selects EXPAND (R111). -/
theorem selectOp_ne_expand (c : Cfg) (p : Phase) (b : Byte) : selectOp c p ≠ some (.expand b) := by
  cases p <;> simp [selectOp]

/-- Settles O4: the row's meaning is its one write, and `selectOp_ne_expand`. -/
theorem expandRowCompletes : Obligations.ExpandRowCompletes := by
  unfold Obligations.ExpandRowCompletes
  exact ⟨fun _ _ => rfl, selectOp_ne_expand⟩

/-- Settles O19. -/
theorem startEntersStreaming : Obligations.StartEntersStreaming := by
  unfold Obligations.StartEntersStreaming
  exact fun _ hn => execStart_of_frames hn

/-- Settles O22. -/
theorem emptySequenceStops : Obligations.EmptySequenceStops := by
  unfold Obligations.EmptySequenceStops
  exact fun _ hn => ⟨execStart_of_empty hn, execNext_of_empty hn⟩

end Sys2Proof.Machine
end

section
/-! Proofs/Steps.lean: one step between resets (R150): the effect of the operation the phase selects, then the phase's
own writes; what it leaves in each field; and the reset (R220). -/
namespace Sys2Proof.Machine

/-! ### The phase's own writes (R152 to R165) -/

section
variable (p : Phase) (s : State)

@[simp] theorem finishPhase_cfg : (finishPhase p s).cfg = s.cfg := by cases p <;> rfl
@[simp] theorem finishPhase_fi : (finishPhase p s).fi = s.fi := by cases p <;> rfl
@[simp] theorem finishPhase_len : (finishPhase p s).len = s.len := by cases p <;> rfl
@[simp] theorem finishPhase_buf : (finishPhase p s).buf = s.buf := by cases p <;> rfl
@[simp] theorem finishPhase_winc : (finishPhase p s).winc = s.winc := by cases p <;> rfl
@[simp] theorem finishPhase_winr : (finishPhase p s).winr = s.winr := by cases p <;> rfl
@[simp] theorem finishPhase_out : (finishPhase p s).out = s.out := by cases p <;> rfl
@[simp] theorem finishPhase_rst : (finishPhase p s).rst = s.rst := by cases p <;> rfl
@[simp] theorem finishPhase_busIn : (finishPhase p s).busIn = s.busIn := by cases p <;> rfl
@[simp] theorem finishPhase_resets : (finishPhase p s).resets = s.resets := by cases p <;> rfl
@[simp] theorem finishPhase_bufRead (a : Nat) : (finishPhase p s).bufRead a = s.bufRead a := by cases p <;> rfl
@[simp] theorem finishPhase_bufWritten (a : Nat) : (finishPhase p s).bufWritten a = s.bufWritten a := by
  cases p <;> rfl

/-- The phase's last write goes along its edge of the graph (R151). -/
theorem successor_finishPhase (hp : p ≠ .cfgErr) : successor s.cfg s.cc p = some (finishPhase p s).ph := by
  cases p with
  | cfgErr => exact absurd rfl hp
  | _ => rfl

end

/-! ### One step between resets -/

/-- A step between resets is the effect of the selected operation, then the phase's writes (R150). -/
theorem step_eq_next_effect {s t : State} (h0 : s.rst = false) :
    step s = .next t ↔ ∃ i u, selectOp s.cfg s.ph = some i ∧ Effect s i u ∧ finishPhase s.ph u = t := by
  rw [step_eq_next]
  simp [h0, exec_eq_next]

theorem selectOp_eq_start {c : Cfg} {p : Phase} : selectOp c p = some .start ↔ p = .start := by
  cases p <;> simp [selectOp]

theorem selectOp_eq_next {c : Cfg} {p : Phase} : selectOp c p = some .next ↔ p = .next := by
  cases p <;> simp [selectOp]

theorem selectOp_eq_unpkf {c : Cfg} {p : Phase} : selectOp c p = some .unpkf ↔ p = .unpack := by
  cases p <;> simp [selectOp]

theorem selectOp_eq_zfill {c : Cfg} {p : Phase} : selectOp c p = some .zfill ↔ p = .clrFill := by
  cases p <;> simp [selectOp]

theorem selectOp_eq_wdata {c : Cfg} {p : Phase} : selectOp c p = some .wdata ↔ p = .clrSend ∨ p = .send := by
  cases p <;> simp [selectOp]

/-- Settles O23. -/
theorem phaseSelectsItsOperation : Obligations.PhaseSelectsItsOperation := by
  unfold Obligations.PhaseSelectsItsOperation
  exact fun c => ⟨rfl, rfl, rfl, rfl, rfl, rfl, rfl, rfl, rfl, rfl, rfl, rfl, rfl, rfl⟩

/-- Settles O24: `step` with the reset released is `mapNext` of the phase's writes over the operation's outcome. -/
theorem stepRunsTheSelectedOperation : Obligations.StepRunsTheSelectedOperation := by
  unfold Obligations.StepRunsTheSelectedOperation
  intro s i h0 hi
  have hstep : step s = mapNext (finishPhase s.ph) (exec i s) := by simp [step, h0, hi]
  rw [hstep]
  exact ⟨fun t h => by rw [h]; rfl, fun f h => by rw [h]; rfl, fun q h => by rw [h]; rfl⟩

/-- Settles O29. -/
theorem configErrorHasNoStep : Obligations.ConfigErrorHasNoStep := by
  unfold Obligations.ConfigErrorHasNoStep
  exact fun s h0 hp => step_eq_fault.2 ⟨h0, .inl ⟨selectOp_eq_none.2 hp, rfl⟩⟩

/-- Settles O27: the operation leaves `Cfg` and `CC`, so the phase's last write is along the graph from the state
before the step. -/
theorem stepFollowsThePhaseGraph : Obligations.StepFollowsThePhaseGraph := by
  unfold Obligations.StepFollowsThePhaseGraph
  intro s t h0 h
  obtain ⟨i, u, hi, he, rfl⟩ := (step_eq_next_effect h0).1 h
  have hp : s.ph ≠ .cfgErr := fun hp => by simp [selectOp_eq_none.2 hp] at hi
  rw [← he.cfg, ← he.cc]
  exact successor_finishPhase s.ph u hp

/-- Settles O28: START and NEXT make their writes of `ST` and `FI`, every other write of the three is the phase's. -/
theorem stepWritesProtocolAndCounters : Obligations.StepWritesProtocolAndCounters := by
  unfold Obligations.StepWritesProtocolAndCounters
  intro s t h0 h
  obtain ⟨i, u, hi, he, rfl⟩ := (step_eq_next_effect h0).1 h
  by_cases hs : s.ph = .start
  · cases (selectOp_eq_start.2 hs).symm.trans hi
    cases he.eq_start
    simp only [hs]
    exact ⟨rfl, rfl, rfl⟩
  by_cases hn : s.ph = .next
  · cases (selectOp_eq_next.2 hn).symm.trans hi
    cases he.eq_next
    simp only [hn]
    exact ⟨rfl, rfl, rfl⟩
  have his : i ≠ .start := fun h => hs (selectOp_eq_start.1 (h ▸ hi))
  have hin : i ≠ .next := fun h => hn (selectOp_eq_next.1 (h ▸ hi))
  rw [← he.st_of_ne his, ← he.cc, ← he.fi_of_ne his hin]
  cases hp : s.ph with
  | start => exact absurd hp hs
  | next => exact absurd hp hn
  | _ => exact ⟨rfl, rfl, rfl⟩

/-- The shadow window after a step is the selected operation's (R133, R134). -/
theorem step_window {s t : State} {i : Instr} (h0 : s.rst = false) (hi : selectOp s.cfg s.ph = some i)
    (h : step s = .next t) : t.winc = (framerWrites i s).winc ∧ t.winr = (framerWrites i s).winr := by
  obtain ⟨i', u, hi', he, rfl⟩ := (step_eq_next_effect h0).1 h
  cases hi'.symm.trans hi
  simp [he.winc, he.winr]

/-- Outside the two loading phases a step leaves `LEN` (R26). -/
theorem step_len_of_ne {s t : State} (h0 : s.rst = false) (hu : s.ph ≠ .unpack) (hz : s.ph ≠ .clrFill)
    (h : step s = .next t) : t.len = s.len := by
  obtain ⟨i, u, hi, he, rfl⟩ := (step_eq_next_effect h0).1 h
  rw [finishPhase_len]
  exact he.len_of_ne (fun h => hu (selectOp_eq_unpkf.1 (h ▸ hi))) (fun h => hz (selectOp_eq_zfill.1 (h ▸ hi)))

/-- A step between resets leaves the reset input and the count of resets. -/
theorem step_rst_resets {s t : State} (h0 : s.rst = false) (h : step s = .next t) :
    t.rst = false ∧ t.resets = s.resets := by
  obtain ⟨i, u, -, he, rfl⟩ := (step_eq_next_effect h0).1 h
  simp [he.rst, he.resets, h0]

theorem step_buf {s t : State} (h0 : s.rst = false) (h : step s = .next t) : BufGrows s.cfg s.buf t.buf := by
  obtain ⟨i, u, -, he, rfl⟩ := (step_eq_next_effect h0).1 h
  simpa using he.buf

/-- What a step between resets appends: the events of one bus write of the selected operation, one heartbeat, or
nothing (R33). -/
theorem step_out {s t : State} (h0 : s.rst = false) (h : step s = .next t) :
    ∃ i evs, selectOp s.cfg s.ph = some i ∧ t.out = s.out ++ evs ∧
      ((∃ bytes r, Transmits s bytes i ∧ evs = busEvents s bytes r) ∨ (∃ v, evs = [.led v]) ∨ evs = []) := by
  obtain ⟨i, u, hi, he, rfl⟩ := (step_eq_next_effect h0).1 h
  obtain ⟨evs, hout, hevs⟩ := he.out
  exact ⟨i, evs, hi, by simpa using hout, hevs⟩

/-! ### Reset (R220) -/

theorem step_of_rst {s : State} (h1 : s.rst = true) : step s = .next (takeReset s) :=
  step_eq_next.2 (.inl ⟨h1, rfl⟩)

theorem eq_takeReset {s t : State} (h1 : s.rst = true) (h : step s = .next t) : t = takeReset s := by
  cases (step_of_rst h1).symm.trans h
  rfl

/-- Settles O30: the reset state of R35, of the same configuration. -/
theorem resetReplacesTheState : Obligations.ResetReplacesTheState := by
  unfold Obligations.ResetReplacesTheState
  intro s h1
  exact ⟨_, step_of_rst h1, rfl, rfl, rfl, rfl, rfl, rfl, rfl, rfl, rfl, rfl, fun a => ⟨rfl, bufRead_isSome⟩⟩

/-- Settles O31. -/
theorem resetStateIsTheTables : Obligations.ResetStateIsTheTables := by
  unfold Obligations.ResetStateIsTheTables
  exact ⟨fun c k d q => ⟨rfl, rfl, rfl, rfl, rfl, rfl, rfl, rfl, rfl, fun a => ⟨rfl, bufRead_isSome⟩⟩,
    _, _, _, _, rfl⟩

/-! ### Every step, a reset among them -/

theorem step_cfg {s t : State} (h : step s = .next t) : t.cfg = s.cfg := by
  cases h0 : s.rst with
  | true => rw [eq_takeReset h0 h]; rfl
  | false =>
    obtain ⟨i, u, -, he, rfl⟩ := (step_eq_next_effect h0).1 h
    rw [finishPhase_cfg, he.cfg]

/-- Settles O32. -/
theorem stepKeepsConfiguration : Obligations.StepKeepsConfiguration := by
  unfold Obligations.StepKeepsConfiguration
  exact fun s t h => ⟨step_cfg h, fun a => by rw [step_cfg h]⟩

/-- Settles O33: a bus write appends one or two events, a heartbeat one. -/
theorem traceOnlyGrows : Obligations.TraceOnlyGrows := by
  unfold Obligations.TraceOnlyGrows
  intro s t h0 h
  obtain ⟨i, evs, -, hout, hevs⟩ := step_out h0 h
  refine ⟨evs, hout, ?_⟩
  obtain ⟨bytes, r, -, rfl⟩ | ⟨v, rfl⟩ | rfl := hevs
  · cases r <;> simp [busEvents]
  · simp
  · simp

/-- Settles O34: an offset unwritten after a step has the cell it had before, that is, none. -/
theorem bufferIsCapBytes : Obligations.BufferIsCapBytes := by
  unfold Obligations.BufferIsCapBytes
  refine ⟨fun s a => bufRead_isSome, fun s t a h0 h hnot => ?_⟩
  have hsame : t.buf.read a = s.buf.read a :=
    ((step_buf h0 h).each a).resolve_left (by simpa [State.bufWritten] using hnot)
  exact ⟨by rwa [bufWritten_congr hsame] at hnot, bufRead_congr (step_cfg h) (step_rst_resets h0 h).2 hsame⟩

/-- Settles O39: a reset empties the list of cells, any other step extends it by `BufGrows`. -/
theorem stepKeepsBufferCanonical : Obligations.StepKeepsBufferCanonical := by
  unfold Obligations.StepKeepsBufferCanonical
  intro s t h
  cases h0 : s.rst with
  | true =>
    rw [eq_takeReset h0 h]
    exact ⟨fun _ => rfl, fun _ => rfl⟩
  | false =>
    rw [step_cfg h]
    exact ⟨(step_buf h0 h).wf, (step_buf h0 h).below⟩

/-- The bytes a framer operation hands to the bus: at least two, the first a control byte (R136). -/
theorem transmits_control {s : State} {bytes : List Byte} {i : Instr} (h : Transmits s bytes i) :
    2 ≤ bytes.length ∧ (bytes.head? = some ctrlCmd ∨ bytes.head? = some ctrlData) := by
  cases i with
  | pwron | remap | colwin | rowwin =>
    cases h
    exact ⟨by simp [formatC0, formatC1, formatC2], .inl rfl⟩
  | wdata =>
    obtain ⟨h2, -, -, payload, hl, -, rfl⟩ := h
    exact ⟨by simp [formatD]; omega, .inr rfl⟩
  | unpkf | zfill | start | ledt | next | expand => exact h.elim

/-- Settles O40: a reset empties the trace; any other step appends framed events only. -/
theorem stepKeepsControlBytes : Obligations.StepKeepsControlBytes := by
  unfold Obligations.StepKeepsControlBytes
  intro s t hs h
  cases h0 : s.rst with
  | true =>
    rw [eq_takeReset h0 h]
    rfl
  | false =>
    obtain ⟨i, evs, -, hout, hevs⟩ := step_out h0 h
    have hnew : evs.all (Event.framed s.cfg) = true := by
      obtain ⟨bytes, r, send, rfl⟩ | ⟨v, rfl⟩ | rfl := hevs
      · have := transmits_control send
        cases r <;> simpa [busEvents, Event.framed] using this
      · rfl
      · rfl
    rw [State.framedOut] at hs
    rw [State.framedOut, step_cfg h, hout, List.all_append, hs, hnew]
    rfl

end Sys2Proof.Machine
end

section
/-! Proofs/Coding.lean: the encoder and the decoder (R81 to R93) undo each other, phase codes included, and what a step
emits is the encoding of the operation it ran. -/
namespace Sys2Proof

/-! ### Codes (R90, R91) -/

@[simp] theorem Phase.ofCode_code (p : Phase) : Phase.ofCode p.code = some p := by cases p <;> rfl

theorem Phase.code_ofCode : ∀ k : BitVec 4, ∀ p ∈ Phase.ofCode k, p.code = k := by decide

/-- Settles O55: the two tables of codes are small enough to read in full. -/
theorem phaseCodesAreReadBack : Obligations.PhaseCodesAreReadBack := by
  unfold Obligations.PhaseCodesAreReadBack
  exact ⟨Phase.ofCode_code, Phase.code_ofCode, rfl, rfl, fun p => by cases p <;> rfl, by decide⟩

/-- A phase code decodes to exactly the operation its phase selects (R90). -/
theorem decode_phaseCode {c : Cfg} {p : Phase} {i : Instr} :
    decode c (.phaseCode p.code) = .ok (Request.mk i []) ↔ selectOp c p = some i := by
  simp only [decode, decodePhase, Phase.ofCode_code]
  cases selectOp c p <;> simp

/-- Settles O25. -/
theorem decodedPhaseIsTheOperationRun : Obligations.DecodedPhaseIsTheOperationRun := by
  unfold Obligations.DecodedPhaseIsTheOperationRun
  exact fun _ _ _ => decode_phaseCode

/-! ### Transactions (R93) -/

theorem decodeTransaction_command (c : Cfg) (rest : List Byte) :
    decodeTransaction c (ctrlCmd :: rest) = decodeCommand c rest := by
  simp [decodeTransaction, ctrlCmd, ctrlData]

theorem decodeTransaction_data (c : Cfg) {payload : List Byte} (h : payload ≠ []) :
    decodeTransaction c (ctrlData :: payload) = .ok (Request.mk .wdata payload) := by
  simp [decodeTransaction, h]

theorem decode_formatC0 (c : Cfg) : decodeTransaction c (formatC0 c.opcPwron) = .ok (Request.mk .pwron []) := by
  simp [formatC0, decodeTransaction_command, decodeCommand]

theorem decode_formatC1 (c : Cfg) (a : Byte) :
    decodeTransaction c (formatC1 c.opcRemap a) = .ok (Request.mk (.remap a) []) := by
  simp [formatC1, decodeTransaction_command, decodeCommand]

theorem decode_formatC2_colwin {c : Cfg} (hd : c.opcodesDistinct = true) (s e : Byte) :
    decodeTransaction c (formatC2 c.opcColwin s e) = .ok (Request.mk (.colwin s e) []) := by
  simp only [Cfg.opcodesDistinct, decide_eq_true_eq] at hd
  simp [formatC2, decodeTransaction_command, decodeCommand, decodeWindow, hd]

theorem decode_formatC2_rowwin {c : Cfg} (hd : c.opcodesDistinct = true) (s e : Byte) :
    decodeTransaction c (formatC2 c.opcRowwin s e) = .ok (Request.mk (.rowwin s e) []) := by
  simp only [Cfg.opcodesDistinct, decide_eq_true_eq] at hd
  simp [formatC2, decodeTransaction_command, decodeCommand, decodeWindow, hd.symm]

/-- Settles O52: one format a row; the payload of a well-formed request is empty except WDATA's, which is not. -/
theorem decodeEncodeRoundTrip : Obligations.DecodeEncodeRoundTrip := by
  unfold Obligations.DecodeEncodeRoundTrip
  rintro c ⟨op, payload⟩ e hd hwf henc
  cases op with
  | wdata =>
    simp only [Request.wf, Bool.and_eq_true, decide_eq_true_eq] at hwf
    cases henc
    exact decodeTransaction_data c (List.length_pos_iff.1 hwf.1)
  | pwron =>
    cases List.isEmpty_iff.1 hwf
    cases henc
    exact decode_formatC0 c
  | remap a =>
    cases List.isEmpty_iff.1 hwf
    cases henc
    exact decode_formatC1 c a
  | colwin a b =>
    cases List.isEmpty_iff.1 hwf
    cases henc
    exact decode_formatC2_colwin hd a b
  | rowwin a b =>
    cases List.isEmpty_iff.1 hwf
    cases henc
    exact decode_formatC2_rowwin hd a b
  | unpkf | zfill | start | ledt | next =>
    cases List.isEmpty_iff.1 hwf
    cases henc
    exact decode_phaseCode.2 rfl
  | expand b => cases henc

theorem encode_of_decodeWindow {c : Cfg} {o s e : Byte} {r : Request} (h : decodeWindow c o s e = .ok r) :
    encode c r = some (.transaction [ctrlCmd, o, s, e]) := by
  unfold decodeWindow at h
  split at h
  · rename_i hcol
    split at h
    · cases h
    · cases h
      rw [hcol]
      rfl
  · split at h
    · rename_i hrow
      cases h
      rw [hrow]
      rfl
    · cases h

theorem encode_of_decodeCommand {c : Cfg} {rest : List Byte} {r : Request} (h : decodeCommand c rest = .ok r) :
    encode c r = some (.transaction (ctrlCmd :: rest)) := by
  unfold decodeCommand at h
  split at h
  · split at h
    · rename_i ho
      cases h
      rw [ho]
      rfl
    · cases h
  · split at h
    · rename_i ho
      cases h
      rw [ho]
      rfl
    · cases h
  · exact encode_of_decodeWindow h
  · cases h

/-- Settles O53: the control byte splits data from commands, and each accepted command is compared with its opcode
byte. -/
theorem decodedTransactionEncodesBack : Obligations.DecodedTransactionEncodesBack := by
  unfold Obligations.DecodedTransactionEncodesBack
  intro c t r h
  cases t with
  | nil => cases h
  | cons b rest =>
    simp only [decode, decodeTransaction] at h
    split at h
    · rename_i hb
      split at h
      · cases h
      · cases h
        rw [hb]
        rfl
    · split at h
      · rename_i hb
        rw [hb]
        exact encode_of_decodeCommand h
      · cases h

/-- Settles O54. -/
theorem decoderRejectsByName : Obligations.DecoderRejectsByName := by
  unfold Obligations.DecoderRejectsByName
  refine fun c => ⟨rfl, fun b rest h0 h4 => ?_, rfl, rfl, fun rest hlong => ?_⟩
  · exact (if_neg h4).trans (if_neg h0)
  · refine (decodeTransaction_command c rest).trans ?_
    match rest, hlong with
    | _ :: _ :: _ :: _ :: _, _ => rfl

/-- Settles O56. -/
theorem knownWordsDecode : Obligations.KnownWordsDecode := by
  unfold Obligations.KnownWordsDecode
  decide

end Sys2Proof

namespace Sys2Proof.Machine

/-! ### What a step emits (R81, R93) -/

/-- A framer operation hands the bus the encoding of itself, as a well-formed request (R81 to R85). -/
theorem encode_of_transmits {s : State} {bytes : List Byte} {i : Instr} (h : Transmits s bytes i) :
    ∃ payload, (Request.mk i payload).wf s.cfg = true ∧
      encode s.cfg (Request.mk i payload) = some (.transaction bytes) := by
  cases i with
  | pwron | remap | colwin | rowwin =>
    cases h
    exact ⟨[], rfl, rfl⟩
  | wdata =>
    obtain ⟨h2, hcap, -, payload, hl, -, rfl⟩ := h
    rw [Cfg.cap] at hcap
    refine ⟨payload, ?_, rfl⟩
    simp only [Request.wf, Bool.and_eq_true, decide_eq_true_eq]
    omega
  | unpkf | zfill | start | ledt | next | expand => exact h.elim

/-- Where the window opcodes differ, what a framer operation sends reads back as the operation (R93). -/
theorem decode_of_transmits {s : State} {bytes : List Byte} {i : Instr} (hd : s.cfg.opcodesDistinct = true)
    (h : Transmits s bytes i) : ∃ payload, decodeTransaction s.cfg bytes = .ok (Request.mk i payload) := by
  obtain ⟨payload, hwf, henc⟩ := encode_of_transmits h
  exact ⟨payload, decodeEncodeRoundTrip s.cfg _ _ hd hwf henc⟩

theorem mem_busEvents_bus {s : State} {bytes bytes' : List Byte} {r r' : BusResult} {addr : Nat}
    (h : Event.bus addr bytes' r' ∈ busEvents s bytes r) : addr = s.cfg.devAddr ∧ bytes' = bytes := by
  cases r <;> simp_all [busEvents]

/-- Settles O26: the only bus events a step appends are those of the selected operation's transaction. -/
theorem emittedBytesDecodeBack : Obligations.EmittedBytesDecodeBack := by
  unfold Obligations.EmittedBytesDecodeBack
  intro s t hd h0 h
  obtain ⟨i, evs, hi, hout, hevs⟩ := step_out h0 h
  refine ⟨evs, hout, fun addr bytes r hmem => ?_⟩
  obtain ⟨sent, r', send, rfl⟩ | ⟨v, rfl⟩ | rfl := hevs
  · obtain ⟨haddr, rfl⟩ := mem_busEvents_bus hmem
    obtain ⟨payload, hdec⟩ := decode_of_transmits hd send
    exact ⟨haddr, _, hdec, hi⟩
  · simp at hmem
  · simp at hmem

end Sys2Proof.Machine
end

section
/-! Proofs/Invariant.lean: the invariant of reachable states (R36, R136, R157): it holds at reset, every step keeps it,
field by field, and in it the machine stops in the two named ways only (R66, R168). -/
namespace Sys2Proof.Machine

/-! ### At reset -/

theorem resetOf_ph_eq {c : Cfg} {k d : Nat} {q : List BusAnswer} {p : Phase}
    (hp : (State.resetOf c k d q).ph = p) : (c.configOK = true ∧ p = .pwron) ∨ (c.configOK = false ∧ p = .cfgErr) := by
  subst hp
  cases hok : c.configOK <;> simp [hok]

/-- Right after reset the machine is in none of the later phases (R35). -/
theorem resetOf_ph_ne {c : Cfg} {k d : Nat} {q : List BusAnswer} {p : Phase} (h1 : p ≠ .pwron) (h2 : p ≠ .cfgErr) :
    (State.resetOf c k d q).ph ≠ p :=
  fun hp => (resetOf_ph_eq hp).elim (fun h => h1 h.2) (fun h => h2 h.2)

theorem inv_resetOf (c : Cfg) (k d : Nat) (q : List BusAnswer) : (State.resetOf c k d q).Inv where
  cfgErr := by cases hok : c.configOK <;> simp [hok]
  proto := by cases hok : c.configOK <;> simp [hok, Phase.proto]
  frame hne := by
    obtain ⟨hok, -⟩ | ⟨-, hp⟩ := resetOf_ph_eq (c := c) (k := k) (d := d) (q := q) rfl
    · exact Cfg.frames_of_ok hok
    · exact absurd hp hne
  count := Nat.zero_le _
  pending hp := absurd hp (resetOf_ph_ne nofun nofun)
  clear hp := by cases hok : c.configOK <;> simp [hok, inClear] at hp
  lenBound := ⟨Nat.le_refl 1, Nat.le_add_right 1 _⟩
  loaded hp := absurd hp (not_or.2 ⟨resetOf_ph_ne nofun nofun, resetOf_ph_ne nofun nofun⟩)
  zeros hp := absurd hp (resetOf_ph_ne nofun nofun)
  bufBelow := rfl
  bufWf := rfl
  colSet hp := absurd hp (resetOf_ph_ne nofun nofun)
  winSet hst := absurd hst (not_or.2 ⟨nofun, nofun⟩)
  framed := rfl

/-- Settles O35. -/
theorem resetMeetsTheInvariant : Obligations.ResetMeetsTheInvariant := by
  unfold Obligations.ResetMeetsTheInvariant
  exact ⟨inv_resetOf, inv_resetOf _ _ _ _⟩

/-! ### The edges of the phase graph (R151) -/

/-- The edges of the graph, one constructor an edge, with the condition on it. -/
inductive Edge (c : Cfg) (cc : Nat) : Phase → Phase → Prop
  | pwron : Edge c cc .pwron .remap
  | remapClear (wanted : c.clearEn = true) : Edge c cc .remap .clrCol
  | remapWindow (unwanted : c.clearEn = false) : Edge c cc .remap .winCol
  | clrCol : Edge c cc .clrCol .clrRow
  | clrRow : Edge c cc .clrRow .clrFill
  | clrFill : Edge c cc .clrFill .clrSend
  | clrMore (more : cc + 1 < c.clearWrites) : Edge c cc .clrSend .clrSend
  | clrDone (done : c.clearWrites ≤ cc + 1) : Edge c cc .clrSend .winCol
  | winCol : Edge c cc .winCol .winRow
  | winRow : Edge c cc .winRow .start
  | start : Edge c cc .start .unpack
  | unpack : Edge c cc .unpack .send
  | send : Edge c cc .send .led
  | led : Edge c cc .led .next
  | next : Edge c cc .next .unpack

theorem successor_eq_some {c : Cfg} {cc : Nat} {p q : Phase} : successor c cc p = some q ↔ Edge c cc p q := by
  constructor
  · intro h
    cases p
    case remap =>
      cases hen : c.clearEn <;> simp only [successor, hen] at h <;> cases h
      · exact .remapWindow hen
      · exact .remapClear hen
    case clrSend =>
      by_cases hcc : cc + 1 < c.clearWrites <;> simp only [successor, hcc] at h <;> cases h
      · exact .clrMore hcc
      · exact .clrDone (by omega)
    all_goals
      cases h
    all_goals
      constructor
  · intro e
    cases e with
    | remapClear h => simp [successor, h]
    | remapWindow h => simp [successor, h]
    | clrMore h => simp [successor, h]
    | clrDone h => simp [successor, Nat.not_lt.2 h]
    | _ => rfl

namespace Edge

variable {c : Cfg} {cc : Nat} {p q : Phase}

theorem ne_cfgErr (e : Edge c cc p q) : p ≠ .cfgErr ∧ q ≠ .cfgErr := by cases e <;> exact ⟨nofun, nofun⟩

theorem into_send (e : Edge c cc p .send) : p = .unpack := by cases e; rfl

theorem into_winRow (e : Edge c cc p .winRow) : p = .winCol := by cases e; rfl

theorem into_clrSend (e : Edge c cc p .clrSend) : p = .clrFill ∨ (p = .clrSend ∧ cc + 1 < c.clearWrites) := by
  cases e with
  | clrFill => exact .inl rfl
  | clrMore more => exact .inr ⟨rfl, more⟩

theorem into_clear (e : Edge c cc p q) (hq : inClear q = true) : c.clearEn = true ∨ inClear p = true := by
  cases e with
  | remapClear wanted => exact .inl wanted
  | clrCol | clrRow | clrFill | clrMore => exact .inr rfl
  | _ => cases hq

/-- An edge leads to a phase of the same protocol state or of a later one (R22). -/
theorem protoRank_le (e : Edge c cc p q) : protoRank p.proto ≤ protoRank q.proto := by cases e <;> decide

theorem from_late (e : Edge c cc p q) (hp : p.proto = .windowConfigured ∨ p.proto = .streaming) :
    q.proto = .streaming := by
  cases e with
  | start | unpack | send | led | next => rfl
  | _ => simp [Phase.proto] at hp

theorem into_late (e : Edge c cc p q) (hp : p ≠ .winRow) (hq : q.proto = .windowConfigured ∨ q.proto = .streaming) :
    p.proto = .windowConfigured ∨ p.proto = .streaming := by
  cases e with
  | start => exact .inl rfl
  | unpack | send | led | next => exact .inr rfl
  | winRow => exact absurd rfl hp
  | _ => simp [Phase.proto] at hq

end Edge

/-! ### What the loading phases leave in `BUF` -/

/-- A step at `P_CLR_FILL` loads the whole buffer with zeros (R114, R157). -/
theorem step_at_clrFill {s t : State} (h0 : s.rst = false) (hp : s.ph = .clrFill) (h : step s = .next t) :
    t.len = s.cfg.cap ∧ ∀ a < s.cfg.cap, 1 ≤ a → t.bufWritten a = true ∧ t.bufRead a = some 0x00 := by
  obtain ⟨i, u, hi, he, rfl⟩ := (step_eq_next_effect h0).1 h
  cases (selectOp_eq_zfill.2 hp).symm.trans hi
  obtain ⟨u', hu', hframe, hzero, -⟩ := zfillZeroesThePayload s
  cases (exec_eq_next.2 he).symm.trans hu'
  refine ⟨?_, fun a ha h1 => by simpa using hzero a ha h1⟩
  rw [finishPhase_len, hframe]

/-- A step at `P_UNPACK` loads the whole buffer (R113). -/
theorem step_at_unpack {s t : State} (h0 : s.rst = false) (hp : s.ph = .unpack) (hok : s.cfg.configOK = true)
    (hfi : s.fi < s.cfg.n) (h : step s = .next t) :
    t.len = s.cfg.cap ∧ ∀ a < s.cfg.cap, 1 ≤ a → t.bufWritten a = true := by
  obtain ⟨i, u, hi, he, rfl⟩ := (step_eq_next_effect h0).1 h
  cases (selectOp_eq_unpkf.2 hp).symm.trans hi
  obtain ⟨u', hu', hframe, hbytes, -⟩ := unpkfUnpacksTheFrame.2 s hok hfi
  cases (exec_eq_next.2 he).symm.trans hu'
  have hcap := Cfg.cap_of_ok hok
  refine ⟨by rw [finishPhase_len, hframe, hcap], fun a ha h1 => ?_⟩
  obtain ⟨b, -, hb⟩ := hbytes ((a - 1) / 4) (by omega)
  have := (hb ((a - 1) % 4) (by omega)).1
  rwa [show 1 + 4 * ((a - 1) / 4) + (a - 1) % 4 = a by omega, ← finishPhase_bufWritten s.ph] at this

/-- A step that runs WDATA leaves `LEN` and every payload byte (R135). -/
theorem step_at_wdata {s t : State} (h0 : s.rst = false) (hi : selectOp s.cfg s.ph = some .wdata)
    (h : step s = .next t) :
    t.len = s.len ∧ ∀ a, 1 ≤ a → t.bufWritten a = s.bufWritten a ∧ t.bufRead a = s.bufRead a := by
  obtain ⟨i, u, hi', he, rfl⟩ := (step_eq_next_effect h0).1 h
  cases hi'.symm.trans hi
  obtain ⟨-, -, -, -, -, hlen, -, -, -, -, -, -, -, hrest⟩ := wdataFrame s u (exec_eq_next.2 he)
  refine ⟨by rw [finishPhase_len, hlen], fun a h1 => ?_⟩
  obtain ⟨hread, hwritten⟩ := hrest a (by omega)
  simp [hread, hwritten]

/-! ### Every field of the invariant is kept -/

theorem State.Inv.configOK {s : State} (hs : s.Inv) (hp : s.ph ≠ .cfgErr) : s.cfg.configOK = true := by
  have := mt hs.cfgErr.2 hp
  simpa using this

section
variable {s t : State}

theorem step_edge (h0 : s.rst = false) (h : step s = .next t) : Edge s.cfg s.cc s.ph t.ph :=
  successor_eq_some.1 (stepFollowsThePhaseGraph s t h0 h)

/-- From `WindowConfigured` on the window commands are over: the operations selected write no shadow (R159). -/
theorem selectOp_late {c : Cfg} {p : Phase} {i : Instr} (hp : p.proto = .windowConfigured ∨ p.proto = .streaming)
    (hi : selectOp c p = some i) : i = .start ∨ i = .unpkf ∨ i = .wdata ∨ i = .ledt ∨ i = .next := by
  cases p <;> simp_all [Phase.proto, selectOp]

theorem framerWrites_window_of_late {i : Instr} (s : State)
    (hi : i = .start ∨ i = .unpkf ∨ i = .wdata ∨ i = .ledt ∨ i = .next) :
    (framerWrites i s).winc = s.winc ∧ (framerWrites i s).winr = s.winr := by
  obtain rfl | rfl | rfl | rfl | rfl := hi <;> exact ⟨rfl, rfl⟩

/-- From `WindowConfigured` on a step leaves the shadow window (R159). -/
theorem step_window_of_late (h0 : s.rst = false) (hp : s.ph.proto = .windowConfigured ∨ s.ph.proto = .streaming)
    (h : step s = .next t) : t.winc = s.winc ∧ t.winr = s.winr := by
  obtain ⟨i, u, hi, -⟩ := (step_eq_next_effect h0).1 h
  obtain ⟨hc, hr⟩ := step_window h0 hi h
  obtain ⟨hc', hr'⟩ := framerWrites_window_of_late s (selectOp_late hp hi)
  exact ⟨hc.trans hc', hr.trans hr'⟩

/-- Before the row command the column command is issued (R158). -/
theorem step_into_winRow (h0 : s.rst = false) (h : step s = .next t) (hp : t.ph = .winRow) :
    t.winc = some t.cfg.animCols := by
  have hsp := (hp ▸ step_edge h0 h).into_winRow
  rw [step_cfg h]
  exact (step_window h0 (i := .colwin s.cfg.animCols.1 s.cfg.animCols.2) (by rw [hsp]; rfl) h).1

end

namespace State.Inv

section
variable {s t : State} (hs : s.Inv) (h0 : s.rst = false) (h : step s = .next t)
include hs h0 h

theorem step_configOK : s.cfg.configOK = true := hs.configOK (step_edge h0 h).ne_cfgErr.1

theorem step_proto : t.st = t.ph.proto := by
  have e := step_edge h0 h
  obtain ⟨hst, -, -⟩ := stepWritesProtocolAndCounters s t h0 h
  rw [hs.proto] at hst
  generalize s.ph = p at e hst
  generalize t.ph = q at e ⊢
  cases e <;> exact hst

theorem step_frame : t.fi < t.cfg.n := by
  obtain ⟨-, -, hfi⟩ := stepWritesProtocolAndCounters s t h0 h
  have hn := Cfg.frames_of_ok (hs.step_configOK h0 h)
  have hold := hs.frame (step_edge h0 h).ne_cfgErr.1
  rw [step_cfg h, hfi]
  split
  · exact hn
  · exact Nat.mod_lt _ hn
  · exact hold

theorem step_count : t.cc ≤ t.cfg.clearWrites := by
  obtain ⟨-, hcc, -⟩ := stepWritesProtocolAndCounters s t h0 h
  have hpending := hs.pending
  rw [step_cfg h, hcc]
  split
  · exact Nat.zero_le _
  · exact hpending ‹_›
  · exact hs.count

theorem step_pending (hp : t.ph = .clrSend) : t.cc < t.cfg.clearWrites := by
  obtain ⟨-, hcc, -⟩ := stepWritesProtocolAndCounters s t h0 h
  rw [step_cfg h, hcc]
  obtain hsp | ⟨hsp, hmore⟩ := (hp ▸ step_edge h0 h).into_clrSend
  · simp only [hsp]
    exact Cfg.clearWrites_pos_of_ok (hs.step_configOK h0 h) (hs.clear (by rw [hsp]; rfl))
  · simpa only [hsp] using hmore

theorem step_clear (hp : inClear t.ph = true) : t.cfg.clearEn = true := by
  rw [step_cfg h]
  exact ((step_edge h0 h).into_clear hp).elim id hs.clear

theorem step_lenBound : 1 ≤ t.len ∧ t.len ≤ t.cfg.cap := by
  rw [step_cfg h]
  by_cases hu : s.ph = .unpack
  · rw [(step_at_unpack h0 hu (hs.step_configOK h0 h) (hs.frame (by simp [hu])) h).1, Cfg.cap]
    omega
  by_cases hz : s.ph = .clrFill
  · rw [(step_at_clrFill h0 hz h).1, Cfg.cap]
    omega
  · rw [step_len_of_ne h0 hu hz h]
    exact hs.lenBound

theorem step_loaded (hp : t.ph = .clrSend ∨ t.ph = .send) :
    t.len = t.cfg.cap ∧ ∀ a < t.cfg.cap, 1 ≤ a → t.bufWritten a = true := by
  rw [step_cfg h]
  have e := step_edge h0 h
  obtain hp | hp := hp <;> rw [hp] at e
  · obtain hfill | ⟨hsend, -⟩ := e.into_clrSend
    · obtain ⟨hlen, hbytes⟩ := step_at_clrFill h0 hfill h
      exact ⟨hlen, fun a ha h1 => (hbytes a ha h1).1⟩
    · obtain ⟨hlen, hbytes⟩ := step_at_wdata h0 (selectOp_eq_wdata.2 (.inl hsend)) h
      obtain ⟨hcap, hwritten⟩ := hs.loaded (.inl hsend)
      exact ⟨hlen.trans hcap, fun a ha h1 => (hbytes a h1).1.trans (hwritten a ha h1)⟩
  · have hu := e.into_send
    exact step_at_unpack h0 hu (hs.step_configOK h0 h) (hs.frame (by simp [hu])) h

theorem step_zeros (hp : t.ph = .clrSend) : ∀ a < t.cfg.cap, 1 ≤ a → t.bufRead a = some 0x00 := by
  rw [step_cfg h]
  obtain hfill | ⟨hsend, -⟩ := (hp ▸ step_edge h0 h).into_clrSend
  · exact fun a ha h1 => ((step_at_clrFill h0 hfill h).2 a ha h1).2
  · have hbytes := (step_at_wdata h0 (selectOp_eq_wdata.2 (.inl hsend)) h).2
    exact fun a ha h1 => (hbytes a h1).2.trans (hs.zeros hsend a ha h1)

theorem step_winSet (hst : t.st = .windowConfigured ∨ t.st = .streaming) :
    t.winc = some t.cfg.animCols ∧ t.winr = some t.cfg.animRows := by
  rw [step_cfg h]
  by_cases hrow : s.ph = .winRow
  · obtain ⟨hc, hr⟩ := step_window h0 (i := .rowwin s.cfg.animRows.1 s.cfg.animRows.2) (by rw [hrow]; rfl) h
    exact ⟨hc.trans (hs.colSet hrow), hr⟩
  · rw [hs.step_proto h0 h] at hst
    have hlate := (step_edge h0 h).into_late hrow hst
    obtain ⟨hc, hr⟩ := step_window_of_late h0 hlate h
    rw [hc, hr]
    exact hs.winSet (by rwa [hs.proto])

end

end State.Inv

/-- Settles O36: the reset state meets the invariant; between resets each field is kept, by the lemmas above. -/
theorem stepKeepsTheInvariant : Obligations.StepKeepsTheInvariant := by
  unfold Obligations.StepKeepsTheInvariant
  intro s t hs h
  cases h0 : s.rst with
  | true =>
    rw [eq_takeReset h0 h]
    exact inv_resetOf _ _ _ _
  | false =>
    obtain ⟨hwf, hbelow⟩ := stepKeepsBufferCanonical s t h
    exact {
      cfgErr := iff_of_false (step_edge h0 h).ne_cfgErr.2 (by simp [step_cfg h, hs.step_configOK h0 h])
      proto := hs.step_proto h0 h
      frame := fun _ => hs.step_frame h0 h
      count := hs.step_count h0 h
      pending := hs.step_pending h0 h
      clear := hs.step_clear h0 h
      lenBound := hs.step_lenBound h0 h
      loaded := hs.step_loaded h0 h
      zeros := hs.step_zeros h0 h
      bufBelow := hbelow hs.bufBelow
      bufWf := hwf hs.bufWf
      colSet := step_into_winRow h0 h
      winSet := hs.step_winSet h0 h
      framed := stepKeepsControlBytes s t hs.framed h }

/-! ### Progress (R66, R168) -/

/-- In the invariant the selected operation has a transaction to send, or completes without the bus. -/
theorem State.Inv.transmits_or_next {s : State} {i : Instr} (hs : s.Inv) (hi : selectOp s.cfg s.ph = some i) :
    (∃ bytes, Transmits s bytes i) ∨ ∃ u, exec i s = .next u := by
  have hp : s.ph ≠ .cfgErr := fun hp => by simp [selectOp_eq_none.2 hp] at hi
  have hok := hs.configOK hp
  have hn := Cfg.frames_of_ok hok
  have hwdata : s.ph = .clrSend ∨ s.ph = .send → ∃ bytes, Transmits s bytes .wdata := fun hload => by
    obtain ⟨hlen, hwritten⟩ := hs.loaded hload
    have := Cfg.l_pos_of_ok hok
    have := Cfg.cap_of_ok hok
    exact exists_transmits_wdata (by omega) (by omega) fun a h1 ha => hwritten a (by omega) h1
  cases hph : s.ph <;> rw [hph] at hi <;> cases hi
  case pwron | remap | clrCol | clrRow | winCol | winRow => exact .inl ⟨_, rfl⟩
  case clrSend => exact .inl (hwdata (.inl hph))
  case send => exact .inl (hwdata (.inr hph))
  case clrFill =>
    obtain ⟨m, hm, -⟩ := execZfill_isNext s
    exact .inr ⟨_, hm⟩
  case unpack =>
    obtain ⟨m, hm⟩ := unpackBytes_frame_isOk hok (hs.frame hp)
    exact .inr ⟨_, execUnpkf_eq_next.2 ⟨m, hm, rfl⟩⟩
  case start => exact .inr ⟨_, execStart_of_frames hn⟩
  case led => exact .inr ⟨_, rfl⟩
  case next => exact .inr ⟨_, execNext_of_frames hn⟩

/-- In the invariant the selected operation completes, unless the bus never returns from its write. -/
theorem State.Inv.exec_outcome {s : State} {i : Instr} (hs : s.Inv) (hi : selectOp s.cfg s.ph = some i) :
    (∃ u, exec i s = .next u) ∨ (exec i s = .fault .busNeverReturns ∧ s.nextAnswer = .hangs) := by
  obtain ⟨bytes, send⟩ | hnext := hs.transmits_or_next hi
  · cases ha : s.nextAnswer with
    | returns r => exact .inl ⟨_, exec_of_transmits send ha⟩
    | hangs => exact .inr ⟨exec_of_hangs send ha, rfl⟩
  · exact .inl hnext

/-- Settles O37: outside `P_CFGERR` an operation is selected, and `exec_outcome` leaves the bus only. -/
theorem machineNeverHalts : Obligations.MachineNeverHalts := by
  unfold Obligations.MachineNeverHalts
  intro s r hs hp hr
  cases h0 : s.rst with
  | true => exact ⟨_, step_of_rst h0⟩
  | false =>
    obtain ⟨i, hi⟩ := Option.ne_none_iff_exists'.1 (mt (selectOp_eq_none (c := s.cfg)).1 hp)
    obtain ⟨u, hu⟩ | ⟨-, hang⟩ := hs.exec_outcome hi
    · exact ⟨_, step_eq_next.2 (.inr ⟨h0, i, u, hi, hu, rfl⟩)⟩
    · cases hr.symm.trans hang

/-- Settles O38: a stop is the error phase's, or the selected operation's, which `exec_outcome` names. -/
theorem onlyTheTwoNamedStops : Obligations.OnlyTheTwoNamedStops := by
  unfold Obligations.OnlyTheTwoNamedStops
  refine fun s hs => ⟨fun q hq => ?_, fun f hf => ?_⟩
  · obtain ⟨-, i, hi, href⟩ := step_eq_refused.1 hq
    obtain ⟨u, hu⟩ | ⟨hfault, -⟩ := hs.exec_outcome hi
    · cases href.symm.trans hu
    · cases href.symm.trans hfault
  · obtain ⟨-, ⟨hnone, rfl⟩ | ⟨i, hi, hfault⟩⟩ := step_eq_fault.1 hf
    · have hp := selectOp_eq_none.1 hnone
      exact .inl ⟨rfl, hp, hs.cfgErr.1 hp⟩
    · obtain ⟨u, hu⟩ | ⟨hfault', hang⟩ := hs.exec_outcome hi
      · cases hfault.symm.trans hu
      · cases hfault.symm.trans hfault'
        exact .inr ⟨rfl, hang⟩

/-! ### The protocol chain and the window (R22, R159) -/

/-- Settles O41: `ST` is the phase's, and no edge of the graph leads back. -/
theorem protocolNeverMovesBack : Obligations.ProtocolNeverMovesBack := by
  unfold Obligations.ProtocolNeverMovesBack
  intro s t hs h0 h
  rw [hs.proto, hs.step_proto h0 h]
  exact (step_edge h0 h).protoRank_le

/-- Settles O42: the phases from `P_START` on select no command, and an edge from one of them stays among them. -/
theorem windowIsNotChangedAgain : Obligations.WindowIsNotChangedAgain := by
  unfold Obligations.WindowIsNotChangedAgain
  intro s t hs h0 hst h
  obtain ⟨hwinc, hwinr⟩ := hs.winSet hst
  rw [hs.proto] at hst
  obtain ⟨hc, hr⟩ := step_window_of_late h0 hst h
  refine ⟨hwinc, hwinr, hc, hr, ?_, ?_⟩
  · rw [hs.step_proto h0 h]
    exact (step_edge h0 h).from_late hst
  · obtain ⟨i, evs, hi, hout, hevs⟩ := step_out h0 h
    refine ⟨evs, hout, fun addr bytes r hmem => ?_⟩
    obtain ⟨sent, r', send, rfl⟩ | ⟨v, rfl⟩ | rfl := hevs
    · obtain ⟨-, rfl⟩ := mem_busEvents_bus hmem
      obtain rfl | rfl | rfl | rfl | rfl := selectOp_late hst hi
      case inr.inr.inl =>
        obtain ⟨-, -, -, payload, -, -, rfl⟩ := send
        rfl
      all_goals exact send.elim
    · simp at hmem
    · simp at hmem

end Sys2Proof.Machine
end

section
/-! Proofs/Observer.lean: what the trace lets an observer say of the controller (R34, R139, R193): which bytes may have
arrived, that a known setting is true whatever arrived, and that the shadow window is the observed one. -/
namespace Sys2Proof.Machine

/-! ### Which bytes may have arrived (R193) -/

theorem prefixesOf_eq_inits (bytes : List Byte) : prefixesOf bytes = bytes.inits := by
  induction bytes with
  | nil => rfl
  | cons b bytes ih => rw [prefixesOf, ih, List.inits]

/-- Settles O58. -/
theorem failedWriteLeavesAPrefix : Obligations.FailedWriteLeavesAPrefix := by
  unfold Obligations.FailedWriteLeavesAPrefix
  intro bytes p e
  exact ⟨List.mem_singleton, by rw [possiblyReceived, prefixesOf_eq_inits, List.mem_inits]⟩

/-! ### What a view may claim (R34) -/

theorem observe_ok_of_read {c : Cfg} {bytes : List Byte} {q : Request} (v : ControllerView) (addr : Nat)
    (h : decodeTransaction c bytes = .ok q) : observe c v (.bus addr bytes .ok) = v.learn q.op := by
  simp [observe, h]

theorem observe_ok_of_unread {c : Cfg} {bytes : List Byte} {e : DecodeError} (v : ControllerView) (addr : Nat)
    (h : decodeTransaction c bytes = .error e) : observe c v (.bus addr bytes .ok) = v.forgetCommand c bytes := by
  simp [observe, h]

/-- What a command changes is forgotten with its opcode byte. -/
theorem forgetCommand_learn {c : Cfg} {p : List Byte} {q : Request} (w : ControllerView)
    (h : decodeTransaction c p = .ok q) : (w.learn q.op).forgetCommand c p = w.forgetCommand c p := by
  have henc := decodedTransactionEncodesBack c p q h
  obtain ⟨op, payload⟩ := q
  cases op with
  | pwron | remap | colwin | rowwin =>
    cases henc
    simp [ControllerView.forgetCommand, ControllerView.forgetOpcode, ControllerView.learn, formatC0, formatC1, formatC2]
  | wdata | unpkf | zfill | start | ledt | next | expand => rfl

/-- Whatever bytes arrived, the controller's settings changed at most in what those bytes make the observer forget. -/
theorem CouldLeave.forgetCommand_eq {c : Cfg} {w w' : ControllerView} {p : List Byte} (h : CouldLeave c w p w') :
    w'.forgetCommand c p = w.forgetCommand c p := by
  unfold CouldLeave at h
  split at h
  · rename_i q hq
    rw [h, forgetCommand_learn w hq]
  · exact h

/-- What is forgotten after a part of a transaction is forgotten after the whole of it. -/
theorem forgetCommand_eq_of_part {c : Cfg} {w w' : ControllerView} {p bytes : List Byte} (hp : p <+: bytes)
    (h : w'.forgetCommand c p = w.forgetCommand c p) : w'.forgetCommand c bytes = w.forgetCommand c bytes := by
  obtain ⟨rest, rfl⟩ := hp
  match p with
  | [] | [_] => cases (show w' = w from h); rfl
  | _ :: _ :: _ => exact h

/-- A view that forgets a setting admits every controller that differs in that setting only. -/
theorem ControllerView.Admits.forgetOpcode {c : Cfg} {o : Byte} {v w w' : ControllerView} (hv : v.Admits w)
    (h : w'.forgetOpcode c o = w.forgetOpcode c o) : (v.forgetOpcode c o).Admits w' := by
  obtain ⟨hpowered, hremap, hcols, hrows⟩ := hv
  simp only [ControllerView.forgetOpcode, ControllerView.mk.injEq] at h
  obtain ⟨epowered, eremap, ecols, erows⟩ := h
  refine ⟨?_, ?_, ?_, ?_⟩ <;> simp only [ControllerView.forgetOpcode] <;> split
  all_goals simp_all

theorem ControllerView.Admits.forgetCommand {c : Cfg} {bytes : List Byte} {v w w' : ControllerView} (hv : v.Admits w)
    (h : w'.forgetCommand c bytes = w.forgetCommand c bytes) : (v.forgetCommand c bytes).Admits w' := by
  match bytes with
  | [] | [_] => exact (show w' = w from h) ▸ hv
  | b :: o :: _ =>
    by_cases hb : b = ctrlCmd
    · simp only [ControllerView.forgetCommand, if_pos hb] at h ⊢
      exact hv.forgetOpcode h
    · simp only [ControllerView.forgetCommand, if_neg hb] at h ⊢
      exact h ▸ hv

theorem ControllerView.Admits.learn {v w : ControllerView} (hv : v.Admits w) (i : Instr) :
    (v.learn i).Admits (w.learn i) := by
  obtain ⟨hpowered, hremap, hcols, hrows⟩ := hv
  cases i with
  | pwron => exact ⟨.inr rfl, hremap, hcols, hrows⟩
  | remap a => exact ⟨hpowered, .inr rfl, hcols, hrows⟩
  | colwin s e => exact ⟨hpowered, hremap, .inr rfl, hrows⟩
  | rowwin s e => exact ⟨hpowered, hremap, hcols, .inr rfl⟩
  | wdata | unpkf | zfill | start | ledt | next | expand => exact ⟨hpowered, hremap, hcols, hrows⟩

/-- Settles O51: a write read back whole teaches the view what the controller learns; in every other case the view
forgets all that the bytes could have changed. -/
theorem observerAdmitsEveryPrefix : Obligations.ObserverAdmitsEveryPrefix := by
  unfold Obligations.ObserverAdmitsEveryPrefix
  intro c v w w' addr bytes p r hv hp hleft
  cases r with
  | ok =>
    obtain rfl := List.mem_singleton.1 hp
    cases hdec : decodeTransaction c p with
    | ok q =>
      rw [CouldLeave, hdec] at hleft
      rw [observe_ok_of_read v addr hdec, show w' = w.learn q.op from hleft]
      exact hv.learn q.op
    | error =>
      rw [observe_ok_of_unread v addr hdec]
      exact hv.forgetCommand hleft.forgetCommand_eq
  | err e =>
    have hpart := (failedWriteLeavesAPrefix bytes p e).2.1 hp
    exact hv.forgetCommand (forgetCommand_eq_of_part hpart hleft.forgetCommand_eq)

/-! ### The shadow window (R29, R139) -/

theorem controllerView_append (c : Cfg) (out evs : List Event) :
    controllerView c (out ++ evs) = evs.foldl (observe c) (controllerView c out) := List.foldl_append

/-- A command the controller has learnt and the same command's writes keep the observed window and the shadow equal. -/
theorem learn_window {v : ControllerView} {s : State} (i : Instr) (hc : v.cols = knownOf s.winc)
    (hr : v.rows = knownOf s.winr) :
    (v.learn i).cols = knownOf (framerWrites i s).winc ∧ (v.learn i).rows = knownOf (framerWrites i s).winr := by
  cases i with
  | colwin a e => exact ⟨rfl, hr⟩
  | rowwin a e => exact ⟨hc, rfl⟩
  | pwron | remap | wdata | unpkf | zfill | start | ledt | next | expand => exact ⟨hc, hr⟩

/-- Any operation keeps the shadow window the observed one: a failed write voids the claim, a good one is read back. -/
theorem Effect.shadowTrue {s t : State} {i : Instr} (he : Effect s i t) (hs : s.ShadowTrue) : t.ShadowTrue := by
  intro hd hall
  have hview := hs (he.cfg ▸ hd)
  cases he with
  | @transmit _ bytes r send _ =>
    simp only [State.allOk, List.all_append, Bool.and_eq_true] at hall
    obtain ⟨hold, hnew⟩ := hall
    obtain ⟨hc, hr⟩ := hview hold
    cases r with
    | ok =>
      obtain ⟨payload, hdec⟩ := decode_of_transmits (s := s) hd send
      simp only [controllerView_append, busEvents, List.foldl_cons, List.foldl_nil, observe_ok_of_read _ _ hdec]
      exact learn_window i hc hr
    | err e => simp [busEvents] at hnew
  | ledt =>
    simp only [State.allOk, List.all_append, Bool.and_eq_true] at hall
    simp only [controllerView_append]
    exact hview hall.1
  | unpkf | zfill | start | next | expand => exact hview hall

/-- Settles O44: nothing is issued and nothing is seen. -/
theorem shadowWindowAtReset : Obligations.ShadowWindowAtReset := by
  unfold Obligations.ShadowWindowAtReset
  exact fun _ _ _ _ _ _ => ⟨rfl, rfl⟩

/-- Settles O43: a reset is O44; between resets the operation keeps it, and the phase's writes touch neither side. -/
theorem shadowWindowIsTheObservedOne : Obligations.ShadowWindowIsTheObservedOne := by
  unfold Obligations.ShadowWindowIsTheObservedOne
  intro s t hs h
  cases h0 : s.rst with
  | true =>
    rw [eq_takeReset h0 h]
    exact shadowWindowAtReset _ _ _ _
  | false =>
    obtain ⟨i, u, -, he, rfl⟩ := (step_eq_next_effect h0).1 h
    simpa [State.ShadowTrue, State.allOk] using he.shadowTrue hs

end Sys2Proof.Machine
end

section
/-! Proofs/Geometry.lean: what `ConfigOK` says of widths and lengths (R10, R11), the count of clear writes (R157), and
where UNPKF puts each pixel (R67, R118). -/
namespace Sys2Proof

/-- Settles O57: with `H >= 1` the lengths agree iff `4 * ceil(W/8) = W/2`. -/
theorem lengthsMatchIffWidthIsMultipleOfEight : Obligations.LengthsMatchIffWidthIsMultipleOfEight := by
  unfold Obligations.LengthsMatchIffWidthIsMultipleOfEight
  intro c hh
  rw [Cfg.lengthsMatch, decide_eq_true_eq, Cfg.l, Cfg.p, Cfg.rb, ← Nat.mul_assoc, Nat.mul_right_cancel_iff hh]
  omega

theorem Cfg.width_of_ok {c : Cfg} (h : c.configOK = true) : c.w % 8 = 0 := by
  obtain ⟨-, ⟨hh, -⟩, hlen, -⟩ := (Cfg.configOK_iff c).1 h
  exact (lengthsMatchIffWidthIsMultipleOfEight c hh).1 (decide_eq_true hlen)

theorem Cfg.p_pos_of_ok {c : Cfg} (h : c.configOK = true) : 1 ≤ c.p := by
  have := Cfg.l_pos_of_ok h
  have := Cfg.lengths_of_ok h
  omega

/-- Settles O48: `CLEAR_WRITES` is a division rounded up. -/
theorem clearCoversThePanel : Obligations.ClearCoversThePanel := by
  unfold Obligations.ClearCoversThePanel
  intro c hok
  have hp := Cfg.p_pos_of_ok hok
  have hlow := Nat.lt_div_mul_add (a := c.panelPayload + (c.p - 1)) hp
  have hhigh := Nat.div_mul_le_self (c.panelPayload + (c.p - 1)) c.p
  rw [Cfg.clearWrites]
  omega

namespace Machine

/-- The packed byte of a pixel lies in its frame (R67). -/
theorem packed_offset_lt {c : Cfg} {x y : Nat} (hw : c.w % 8 = 0) (hx : x < c.w) (hy : y < c.h) :
    y * c.rb + x / 8 < c.l := by
  have hrb : x / 8 < c.rb := by rw [Cfg.rb]; omega
  calc y * c.rb + x / 8 < y * c.rb + c.rb := by omega
    _ = c.rb * (y + 1) := by ring
    _ ≤ c.l := Nat.mul_le_mul_left _ hy

/-- A pixel's payload byte is the one of the expansion of its packed byte (R67, R118). -/
theorem payload_offset {c : Cfg} (x y : Nat) (hw : c.w % 8 = 0) :
    1 + y * (c.w / 2) + x / 2 = 1 + 4 * (y * c.rb + x / 8) + x % 8 / 2 := by
  have hrow : y * (c.w / 2) = 4 * (y * c.rb) := by
    rw [Cfg.rb, show c.w / 2 = 4 * ((c.w + 7) / 8) by omega]
    ring
  omega

/-- Settles O16: the pixel's packed byte is expanded to the four payload bytes of O15, and the expansion law O2 finds
its nibble. -/
theorem unpkfKeepsEveryPixel : Obligations.UnpkfKeepsEveryPixel := by
  unfold Obligations.UnpkfKeepsEveryPixel
  intro s hok hfi
  obtain ⟨t, ht, hframe, hbytes, -⟩ := unpkfUnpacksTheFrame.2 s hok hfi
  refine ⟨t, ht, fun x hx y hy => ?_⟩
  have hw := Cfg.width_of_ok hok
  have htw : t.cfg.w = s.cfg.w := by rw [hframe]
  obtain ⟨b, hb, hout⟩ := hbytes _ (packed_offset_lt hw hx hy)
  obtain ⟨o, ho, hnibble⟩ := expansionLaw b (x % 8) (by omega)
  refine ⟨b.getLsbD (7 - x % 8), by simp [packedPixel, hb], ?_⟩
  have hread := (hout (x % 8 / 2) (by omega)).2.trans ho
  rw [Nat.mod_mod_of_dvd x (by decide)] at hnibble
  simp [payloadPixel, htw, payload_offset x y hw, hread, hnibble, rep4]

end Machine

end Sys2Proof
end

section
/-! Proofs/Noninterference.lean: bus results do not steer the machine (R209): what a step does, apart from the results
and the log lines it records, is a function of what the two states share. -/
namespace Sys2Proof.Machine

/-- States that differ at most in bus results are one state with another trace and other answers. -/
theorem sameButResults_iff {s t : State} :
    s.SameButResults t ↔
      ∃ o q d, t = { s with out := o, busIn := q, drawn := d } ∧ s.bareOut = o.filterMap Event.withoutResult := by
  constructor
  · rintro ⟨hmask, hbare⟩
    refine ⟨t.out, t.busIn, t.drawn, ?_, hbare⟩
    cases s
    cases t
    simp only [State.mk.injEq] at hmask ⊢
    simp [hmask]
  · rintro ⟨o, q, d, rfl, hbare⟩
    exact ⟨rfl, hbare⟩

section
variable (s : State) (o : List Event) (q : List BusAnswer) (d : Nat)

/-- Which transaction is sent depends neither on the trace nor on the answers. -/
theorem transmits_bus (bytes : List Byte) (i : Instr) :
    Transmits { s with out := o, busIn := q, drawn := d } bytes i ↔ Transmits s bytes i := by
  cases i <;> rfl

/-- Nor do an operation's own writes. -/
theorem framerWrites_bus (i : Instr) :
    framerWrites i { s with out := o, busIn := q, drawn := d } =
      { framerWrites i s with out := o, busIn := q, drawn := d } := by
  cases i <;> rfl

/-- Nor do the phase's writes. -/
theorem finishPhase_bus (p : Phase) :
    finishPhase p { s with out := o, busIn := q, drawn := d } =
      { finishPhase p s with out := o, busIn := q, drawn := d } := by
  cases p <;> rfl

end

/-- Without results a bus write is its address and its bytes, whatever the bus answered (R209). -/
theorem filterMap_busEvents (s : State) (bytes : List Byte) (r : BusResult) :
    (busEvents s bytes r).filterMap Event.withoutResult = [.inl (s.cfg.devAddr, bytes)] := by
  cases r <;> rfl

/-- The operation has the same effect on two states that differ in bus results, as long as the bus returns. -/
theorem Effect.sameButResults {s t u : State} {i : Instr} {r' : BusResult} (he : Effect s i u)
    (hst : s.SameButResults t) (answer : t.nextAnswer = .returns r') : ∃ u', Effect t i u' ∧ u.SameButResults u' := by
  obtain ⟨o, q, d, rfl, hbare⟩ := sameButResults_iff.1 hst
  have hgrow : ∀ evs evs' : List Event,
      evs.filterMap Event.withoutResult = evs'.filterMap Event.withoutResult →
      (s.out ++ evs).filterMap Event.withoutResult = (o ++ evs').filterMap Event.withoutResult := by
    intro evs evs' h
    rw [List.filterMap_append, List.filterMap_append, h, ← hbare]
    rfl
  cases he with
  | @transmit _ bytes r send _ =>
    refine ⟨_, .transmit ((transmits_bus s o q d bytes i).2 send) answer, ?_, hgrow _ _ ?_⟩
    · simp only [framerWrites_bus]
    · exact (filterMap_busEvents s bytes r).trans (filterMap_busEvents _ bytes r').symm
  | unpkf loop => exact ⟨_, .unpkf loop, rfl, hbare⟩
  | zfill fill => exact ⟨_, .zfill fill, rfl, hbare⟩
  | start frames => exact ⟨_, .start frames, rfl, hbare⟩
  | ledt => exact ⟨_, .ledt, rfl, hgrow _ _ rfl⟩
  | next frames => exact ⟨_, .next frames, rfl, hbare⟩
  | expand b => exact ⟨_, .expand b, rfl, hbare⟩

theorem State.SameButResults.finishPhase {s t : State} (h : s.SameButResults t) (p : Phase) :
    (finishPhase p s).SameButResults (finishPhase p t) := by
  obtain ⟨o, q, d, rfl, hbare⟩ := sameButResults_iff.1 h
  refine sameButResults_iff.2 ⟨o, q, d, finishPhase_bus s o q d p, ?_⟩
  rw [State.bareOut, finishPhase_out]
  exact hbare

/-- Settles O50: a reset reads no bus result; between resets the phase, the operation and its effect are the same. -/
theorem busResultsDoNotSteer : Obligations.BusResultsDoNotSteer := by
  unfold Obligations.BusResultsDoNotSteer
  intro s t s' r r' hst _ answer h
  obtain ⟨o, q, d, ht, -⟩ := sameButResults_iff.1 hst
  have hrst : t.rst = s.rst := by rw [ht]
  have hcfg : t.cfg = s.cfg := by rw [ht]
  have hph : t.ph = s.ph := by rw [ht]
  cases h0 : s.rst with
  | true =>
    rw [eq_takeReset h0 h]
    exact ⟨_, step_of_rst (hrst.trans h0), by rw [ht]; rfl, rfl⟩
  | false =>
    obtain ⟨i, u, hi, he, rfl⟩ := (step_eq_next_effect h0).1 h
    obtain ⟨u', he', hu⟩ := he.sameButResults hst answer
    refine ⟨finishPhase s.ph u', (step_eq_next_effect (hrst.trans h0)).2 ⟨i, u', ?_, he', ?_⟩, hu.finishPhase s.ph⟩
    · rw [hcfg, hph, hi]
    · rw [hph]

end Sys2Proof.Machine
end

section
/-! Proofs/Passes.lean: the frame loop as a run of four steps a pass (R167, R169). -/
namespace Sys2Proof.Machine

/-! ### Runs and the answers they use -/

theorem stepN_succ {k : Nat} {s t : State} (h : step s = .next t) : stepN (k + 1) s = stepN k t := by
  simp [stepN, h]

theorem stepN_add {k j : Nat} {s t : State} (h : stepN k s = .next t) : stepN (k + j) s = stepN j t := by
  induction k generalizing s with
  | zero =>
    cases h
    rw [Nat.zero_add]
  | succ k ih =>
    rw [Nat.succ_add]
    cases hs : step s with
    | next u =>
      rw [stepN_succ hs] at h ⊢
      exact ih h
    | fault f => simp [stepN, hs] at h
    | refused q => simp [stepN, hs] at h

theorem State.BusReturns.head {s : State} {r : BusResult} {rs : List BusResult} (h : s.BusReturns (r :: rs)) :
    s.nextAnswer = .returns r := by
  obtain ⟨rest, hrest⟩ := h
  exact nextAnswer_cons hrest

theorem State.BusReturns.tail {s t : State} {r : BusResult} {rs : List BusResult} (h : s.BusReturns (r :: rs))
    (ht : t.busIn = s.busIn.tail) : t.BusReturns rs := by
  obtain ⟨rest, hrest⟩ := h
  exact ⟨rest, by simp [ht, hrest]⟩

/-! ### One data write -/

theorem dataEvents_eq_busEvents (s : State) (payload : List Byte) (r : BusResult) :
    dataEvents s.cfg s.ph payload r = busEvents s (formatD payload) r := by
  cases r <;> rfl

/-- WDATA sends the cells of `BUF` from offset 1 on, if they are the whole payload (R135). -/
theorem transmits_wdata_of_cells {s : State} {payload : List Byte} (hpos : 1 ≤ payload.length)
    (hlen : s.len = 1 + payload.length) (hcap : s.len ≤ s.cfg.cap)
    (hcells : ∀ j < payload.length, s.buf.read (1 + j) = payload[j]?) : Transmits s (formatD payload) .wdata := by
  refine ⟨by omega, hcap, fun a h1 ha => ?_, payload, by omega, fun j hj => ?_, rfl⟩
  · have := hcells (a - 1) (by omega)
    rw [show 1 + (a - 1) = a by omega, List.getElem?_eq_getElem (by omega)] at this
    simp [State.bufWritten, this]
  · rw [List.getElem?_eq_getElem hj]
    exact bufRead_of_listed (by omega) ((hcells j hj).trans (List.getElem?_eq_getElem hj))

/-! ### The payload of a frame (R169) -/

theorem framePayload_succ {c : Cfg} {i count k : Nat} {b : Byte} (hb : c.frm.read (i * c.l + k) = some b) :
    framePayload c i (count + 1) k = expand b ++ framePayload c i count (k + 1) := by
  simp [framePayload, hb]

/-- Where every packed byte is there, the payload has four bytes for each, and byte `x` of it is output byte `x mod 4`
of packed byte `x / 4` (R113). -/
theorem framePayload_spec {c : Cfg} {i count k : Nat}
    (hf : ∀ j < count, (c.frm.read (i * c.l + (k + j))).isSome = true) :
    (framePayload c i count k).length = 4 * count ∧
      ∀ x < 4 * count, ∀ b, c.frm.read (i * c.l + (k + x / 4)) = some b →
        (framePayload c i count k)[x]? = (expand b)[x % 4]? := by
  induction count generalizing k with
  | zero => exact ⟨rfl, fun x hx => absurd hx (by omega)⟩
  | succ count ih =>
    obtain ⟨b₀, hb₀⟩ := Option.isSome_iff_exists.1 (hf 0 (by omega))
    obtain ⟨hlen, hbytes⟩ := ih (k := k + 1) fun j hj => by
      have := hf (j + 1) (by omega)
      rwa [show k + 1 + j = k + (j + 1) by omega]
    rw [framePayload_succ (k := k) hb₀]
    refine ⟨by rw [List.length_append, hlen, expand_length]; omega, fun x hx b hb => ?_⟩
    by_cases hx4 : x < 4
    · rw [Nat.div_eq_of_lt hx4] at hb
      cases hb₀.symm.trans hb
      rw [List.getElem?_append_left (by simpa using hx4), Nat.mod_eq_of_lt hx4]
    · rw [List.getElem?_append_right (by simpa using hx4), expand_length]
      rw [show x / 4 = 1 + (x - 4) / 4 by omega, ← Nat.add_assoc k] at hb
      rw [hbytes (x - 4) (by omega) b hb]
      congr 1
      omega

/-! ### The four steps of a pass -/

/-- Where a pass of the frame loop can begin: `P_UNPACK` of an admitted configuration, at one of its frames. -/
structure InLoop (s : State) : Prop where
  rst : s.rst = false
  ph : s.ph = .unpack
  ok : s.cfg.configOK = true
  frame : s.fi < s.cfg.n

theorem State.Inv.inLoop {s : State} (hs : s.Inv) (h0 : s.rst = false) (hp : s.ph = .unpack) : InLoop s :=
  have hne : s.ph ≠ .cfgErr := by simp [hp]
  ⟨h0, hp, hs.configOK hne, hs.frame hne⟩

/-- `P_UNPACK` loads the whole frame (R113, R161). -/
theorem InLoop.step_unpack {s : State} (h : InLoop s) :
    ∃ m, step s = .next { s with buf := m, len := s.cfg.cap, ph := .send } ∧
      Transmits { s with buf := m, len := s.cfg.cap, ph := .send } (formatD (framePayload s.cfg s.fi s.cfg.l 0))
        .wdata := by
  obtain ⟨m, hm⟩ := unpackBytes_frame_isOk h.ok h.frame
  obtain ⟨hlen, hbytes⟩ := framePayload_spec (c := s.cfg) (i := s.fi) (count := s.cfg.l) (k := 0) fun j hj => by
    rw [Nat.zero_add]
    exact Cfg.frame_byte_of_ok h.ok h.frame hj
  have hpos := Cfg.l_pos_of_ok h.ok
  have hcap := Cfg.cap_of_ok h.ok
  refine ⟨m, ?_, transmits_wdata_of_cells (by omega) (by simp only; omega) (Nat.le_refl _) fun j hj => ?_⟩
  · refine (step_eq_next_effect h.rst).2 ⟨.unpkf, _, by rw [h.ph]; rfl, .unpkf hm, ?_⟩
    rw [h.ph, hcap]
    rfl
  · obtain ⟨b, hb, hread⟩ := unpackBytes_read hm (x := j) (by omega)
    exact hread.trans (hbytes j (by omega) b (by rwa [Nat.zero_add])).symm

/-- `P_SEND` sends what is loaded, whatever the result (R135, R162). -/
theorem step_send {s : State} {payload : List Byte} {r : BusResult} (h0 : s.rst = false) (hp : s.ph = .send)
    (send : Transmits s (formatD payload) .wdata) (answer : s.nextAnswer = .returns r) :
    step s = .next { s with
      ph := .led, buf := s.buf.write 0 ctrlData, out := s.out ++ dataEvents s.cfg .send payload r,
      busIn := s.busIn.tail, drawn := s.drawn + 1 } := by
  refine (step_eq_next_effect h0).2 ⟨.wdata, _, selectOp_eq_wdata.2 (.inr hp), .transmit send answer, ?_⟩
  rw [← hp, dataEvents_eq_busEvents, hp]
  rfl

theorem step_led {s : State} (h0 : s.rst = false) (hp : s.ph = .led) :
    step s = .next { s with
      led := ledComplement s.led, out := s.out ++ [.led (ledComplement s.led)], ph := .next } := by
  refine (step_eq_next_effect h0).2 ⟨.ledt, _, by rw [hp]; rfl, .ledt, ?_⟩
  rw [hp]
  rfl

theorem step_next {s : State} (h0 : s.rst = false) (hp : s.ph = .next) (hn : 1 ≤ s.cfg.n) :
    step s = .next { s with fi := frameAfter s.cfg.n s.fi, ph := .unpack } := by
  refine (step_eq_next_effect h0).2 ⟨.next, _, selectOp_eq_next.2 hp, .next hn, ?_⟩
  rw [hp]
  rfl

/-- The heartbeat and the advance close a pass (R163, R164). -/
theorem stepN_led_next {s : State} (h0 : s.rst = false) (hp : s.ph = .led) (hn : 1 ≤ s.cfg.n) :
    stepN 2 s = .next { s with
      fi := frameAfter s.cfg.n s.fi, led := ledComplement s.led, out := s.out ++ [.led (ledComplement s.led)],
      ph := .unpack } := by
  rw [stepN_succ (step_led h0 hp)]
  exact stepN_succ (step_next h0 rfl hn)

/-! ### Passes -/

/-- What passes of the frame loop with the bus results `rs` leave from `s` (R167, R169). -/
structure AfterPasses (s : State) (rs : List BusResult) (t : State) : Prop where
  cfg : t.cfg = s.cfg
  rst : t.rst = s.rst
  ph : t.ph = s.ph
  st : t.st = s.st
  winc : t.winc = s.winc
  winr : t.winr = s.winr
  fi : t.fi = (s.fi + rs.length) % s.cfg.n
  led : t.led = ledComplement^[rs.length] s.led
  len : t.len = if rs = [] then s.len else s.cfg.cap
  busIn : t.busIn = s.busIn.drop rs.length
  out : t.out = s.out ++ passEvents s.cfg s.fi s.led rs

theorem AfterPasses.nil {s : State} (hfi : s.fi < s.cfg.n) : AfterPasses s [] s :=
  ⟨rfl, rfl, rfl, rfl, rfl, rfl, (Nat.mod_eq_of_lt hfi).symm, rfl, rfl, rfl, (List.append_nil _).symm⟩

theorem AfterPasses.cons {s t u : State} {r : BusResult} {rs : List BusResult} (h : AfterPasses s [r] t)
    (h' : AfterPasses t rs u) : AfterPasses s (r :: rs) u where
  cfg := h'.cfg.trans h.cfg
  rst := h'.rst.trans h.rst
  ph := h'.ph.trans h.ph
  st := h'.st.trans h.st
  winc := h'.winc.trans h.winc
  winr := h'.winr.trans h.winr
  fi := by
    rw [h'.fi, h.fi, h.cfg, Nat.mod_add_mod, List.length_cons]
    congr 1
    simp only [List.length_cons, List.length_nil]
    omega
  led := by rw [h'.led, h.led]; rfl
  len := by
    rw [h'.len, h.len, h.cfg]
    split <;> rfl
  busIn := by rw [h'.busIn, h.busIn, List.drop_drop, List.length_cons, List.length_cons, List.length_nil, Nat.add_comm]
  out := by
    have hfi : t.fi = frameAfter s.cfg.n s.fi := h.fi
    have hled : t.led = ledComplement s.led := h.led
    rw [h'.out, h.out, h.cfg, hfi, hled]
    simp [passEvents]

/-- One pass: unpack, send, toggle, advance (R169). -/
theorem InLoop.pass {s : State} {r : BusResult} (h : InLoop s) (answer : s.nextAnswer = .returns r) :
    ∃ t, stepN 4 s = .next t ∧ AfterPasses s [r] t := by
  obtain ⟨m, hunpack, send⟩ := h.step_unpack
  have hsend := step_send (s := { s with buf := m, len := s.cfg.cap, ph := .send }) h.rst rfl send answer
  have hclose := stepN_led_next (s := { s with
    buf := m.write 0 ctrlData, len := s.cfg.cap, ph := .led, busIn := s.busIn.tail, drawn := s.drawn + 1
    out := s.out ++ dataEvents s.cfg .send (framePayload s.cfg s.fi s.cfg.l 0) r }) h.rst rfl (Cfg.frames_of_ok h.ok)
  refine ⟨_, ((stepN_succ hunpack).trans (stepN_succ hsend)).trans hclose, ?_⟩
  exact ⟨rfl, rfl, h.ph.symm, rfl, rfl, rfl, rfl, rfl, rfl, List.drop_one.symm, by simp [passEvents]⟩

theorem InLoop.after_pass {s t : State} {rs : List BusResult} (h : InLoop s) (ht : AfterPasses s rs t) : InLoop t where
  rst := ht.rst.trans h.rst
  ph := ht.ph.trans h.ph
  ok := by rw [ht.cfg]; exact h.ok
  frame := by rw [ht.cfg, ht.fi]; exact Nat.mod_lt _ (Cfg.frames_of_ok h.ok)

/-- Passes with one bus result each, as many as the bus returns. -/
theorem InLoop.passes {s : State} {rs : List BusResult} (h : InLoop s) (hbus : s.BusReturns rs) :
    ∃ t, stepN (4 * rs.length) s = .next t ∧ AfterPasses s rs t := by
  induction rs generalizing s with
  | nil => exact ⟨s, rfl, .nil h.frame⟩
  | cons r rs ih =>
    obtain ⟨t, hpass, ht⟩ := h.pass hbus.head
    obtain ⟨u, hrun, hu⟩ := ih (h.after_pass ht) (hbus.tail (ht.busIn.trans (List.drop_one)))
    refine ⟨u, ?_, ht.cons hu⟩
    rw [List.length_cons, Nat.mul_succ, Nat.add_comm, stepN_add hpass, hrun]

theorem ledComplement_involutive : Function.Involutive ledComplement := by
  intro v
  revert v
  decide

/-- Settles O45: `InLoop.pass`, field by field. -/
theorem frameLoopPass : Obligations.FrameLoopPass := by
  unfold Obligations.FrameLoopPass
  intro s r q hs h0 hp hq
  obtain ⟨t, hrun, ht⟩ := (hs.inLoop h0 hp).pass (nextAnswer_cons hq)
  have hst : s.st = .streaming := by rw [hs.proto, hp]; rfl
  exact ⟨t, hrun, ht.ph.trans hp, ht.st.trans hst, ht.fi, ht.led, ht.len, ht.winc, ht.winr,
    ht.busIn.trans (by rw [hq]; rfl), by rw [ht.out]; simp [passEvents, ledComplement]⟩

/-- Settles O46: `N` passes advance `FI` by `N` modulo `N` and toggle `LED` `N` times. -/
theorem cycleReturnsToFrameZero : Obligations.CycleReturnsToFrameZero := by
  unfold Obligations.CycleReturnsToFrameZero
  intro s rs hs h0 hp hfi hbus hn
  have hloop := hs.inLoop h0 hp
  have hframes := Cfg.frames_of_ok hloop.ok
  obtain ⟨t, hrun, ht⟩ := hloop.passes hbus
  have hne : rs ≠ [] := by
    rintro rfl
    simp only [List.length_nil] at hn
    omega
  have hst : s.st = .streaming := by rw [hs.proto, hp]; rfl
  rw [hn] at hrun
  refine ⟨t, hrun, ht.ph.trans hp, ht.st.trans hst, ?_, ht.len.trans (if_neg hne), ht.winc, ht.winr, ?_, ?_⟩
  · rw [ht.fi, hfi, hn, Nat.zero_add, Nat.mod_self]
  · rw [ht.led, hn]
    split
    · rw [ledComplement_involutive.iterate_even (Nat.even_iff.2 ‹_›)]
      rfl
    · rw [ledComplement_involutive.iterate_odd (Nat.odd_iff.2 (by omega))]
      rfl
  · rw [ht.out, hfi]

end Sys2Proof.Machine
end

section
/-! Proofs/Startup.lean: the clear as a run (R157), and the operations run from reset to the frame loop (R96, R170). -/
namespace Sys2Proof.Machine

/-! ### The clear (R157) -/

/-- The zero payload of a clear write. -/
abbrev zeroPayload (c : Cfg) : List Byte := List.replicate c.p 0x00

/-- WDATA leaves its own payload loaded: it can be sent again (R135). -/
theorem transmits_wdata_again {s t : State} {bytes : List Byte} (send : Transmits s bytes .wdata)
    (hcfg : t.cfg = s.cfg) (hlen : t.len = s.len)
    (hbytes : ∀ a, 1 ≤ a → t.bufWritten a = s.bufWritten a ∧ t.bufRead a = s.bufRead a) :
    Transmits t bytes .wdata := by
  obtain ⟨h2, hcap, hw, payload, hl, hp, rfl⟩ := send
  refine ⟨by rwa [hlen], by rwa [hlen, hcfg], fun a h1 ha => ?_, payload, by rwa [hlen], fun j hj => ?_, rfl⟩
  · rw [(hbytes a h1).1]
    exact hw a h1 (hlen ▸ ha)
  · rw [(hbytes (1 + j) (by omega)).2]
    exact hp j hj

/-- A clear write can be sent: the machine is at `P_CLR_SEND` with the payload loaded. -/
structure InClear (s : State) (payload : List Byte) : Prop where
  rst : s.rst = false
  ph : s.ph = .clrSend
  send : Transmits s (formatD payload) .wdata

/-- `P_CLR_FILL` loads the zero payload and clears `CC` (R114, R156). -/
theorem step_clrFill {s : State} (h0 : s.rst = false) (hp : s.ph = .clrFill) (hok : s.cfg.configOK = true) :
    ∃ t, step s = .next t ∧ InClear t (zeroPayload s.cfg) ∧ t.cfg = s.cfg ∧ t.cc = 0 ∧ t.out = s.out ∧
      t.busIn = s.busIn := by
  obtain ⟨m, hm, hzero, -⟩ := execZfill_isNext s
  have hpos := Cfg.p_pos_of_ok hok
  have hstep : step s = .next { s with buf := m, len := s.cfg.cap, cc := 0, ph := .clrSend } := by
    refine (step_eq_next_effect h0).2 ⟨.zfill, _, selectOp_eq_zfill.2 hp, exec_eq_next.1 hm, ?_⟩
    rw [hp]
    rfl
  refine ⟨_, hstep, ⟨h0, rfl, ?_⟩, rfl, rfl, rfl, rfl⟩
  refine transmits_wdata_of_cells (by simpa using hpos) (by simp [Cfg.cap]) (Nat.le_refl _) fun j hj => ?_
  rw [List.length_replicate] at hj
  rw [List.getElem?_replicate_of_lt hj]
  exact hzero (1 + j) (by rw [Cfg.cap]; omega) (by omega)

/-- `P_CLR_SEND` sends what is loaded and counts, whatever the result, and leaves the payload loaded (R157). -/
theorem InClear.step {s : State} {payload : List Byte} {r : BusResult} (h : InClear s payload)
    (answer : s.nextAnswer = .returns r) :
    ∃ t, step s = .next t ∧ t.rst = false ∧ t.ph = afterClearSend s.cfg s.cc ∧
      Transmits t (formatD payload) .wdata ∧ t.cfg = s.cfg ∧ t.cc = s.cc + 1 ∧
      t.out = s.out ++ dataEvents s.cfg .clrSend payload r ∧ t.busIn = s.busIn.tail := by
  have hi := (selectOp_eq_wdata (c := s.cfg)).2 (.inl h.ph)
  have hstep : Machine.step s = .next { s with
      ph := afterClearSend s.cfg s.cc, cc := s.cc + 1, buf := s.buf.write 0 ctrlData,
      out := s.out ++ dataEvents s.cfg .clrSend payload r, busIn := s.busIn.tail, drawn := s.drawn + 1 } := by
    refine (step_eq_next_effect h.rst).2 ⟨.wdata, _, hi, .transmit h.send answer, ?_⟩
    rw [← h.ph, dataEvents_eq_busEvents, h.ph]
    rfl
  obtain ⟨hlen, hbytes⟩ := step_at_wdata h.rst hi hstep
  exact ⟨_, hstep, h.rst, rfl, transmits_wdata_again h.send rfl hlen hbytes, rfl, rfl, rfl, rfl⟩

/-- From `P_CLR_SEND` the writes still to come are sent one after another, then the animation window follows. -/
theorem InClear.sends {s : State} {payload : List Byte} {rs : List BusResult} (h : InClear s payload) (hne : rs ≠ [])
    (hbus : s.BusReturns rs) (hcount : s.cc + rs.length = s.cfg.clearWrites) :
    ∃ t, stepN rs.length s = .next t ∧ t.ph = .winCol ∧ t.cc = s.cfg.clearWrites ∧
      t.out = s.out ++ rs.flatMap (dataEvents s.cfg .clrSend payload) := by
  induction rs generalizing s with
  | nil => exact absurd rfl hne
  | cons r rs ih =>
    obtain ⟨t, hstep, hrst, hph, send, hcfg, hcc, hout, hbusIn⟩ := h.step hbus.head
    rw [List.length_cons] at hcount ⊢
    by_cases hlast : rs = []
    · subst hlast
      have hdone : ¬s.cc + 1 < s.cfg.clearWrites := by
        rw [List.length_nil] at hcount
        omega
      exact ⟨t, stepN_succ hstep, hph.trans (if_neg hdone), hcc.trans hcount, by rw [hout]; simp⟩
    · have hlen := List.length_pos_iff.2 hlast
      have hmore : s.cc + 1 < s.cfg.clearWrites := by omega
      obtain ⟨u, hrun, huph, hucc, huout⟩ := ih ⟨hrst, hph.trans (if_pos hmore), send⟩ hlast (hbus.tail hbusIn)
        (by rw [hcc, hcfg]; omega)
      rw [hcfg] at hucc huout
      exact ⟨u, (stepN_succ hstep).trans hrun, huph, hucc, by rw [huout, hout]; simp⟩

/-- Settles O47: ZFILL loads the payload, and `InClear.sends` sends it `CLEAR_WRITES` times. -/
theorem clearSendsExactlyClearWrites : Obligations.ClearSendsExactlyClearWrites := by
  unfold Obligations.ClearSendsExactlyClearWrites
  intro s rs hs h0 hp hbus hn
  have hok := hs.configOK (by simp [hp])
  have hpos := Cfg.clearWrites_pos_of_ok hok (hs.clear (by rw [hp]; rfl))
  have hne : rs ≠ [] := List.length_pos_iff.1 (by omega)
  obtain ⟨t, hfill, hclear, hcfg, hcc, hout, hbusIn⟩ := step_clrFill h0 hp hok
  obtain ⟨u, hrun, hu⟩ := hclear.sends hne (by rwa [State.BusReturns, hbusIn]) (by rw [hcc, hcfg, hn, Nat.zero_add])
  rw [hcfg, hout] at hu
  refine ⟨u, ?_, hu⟩
  rw [Nat.add_comm, stepN_succ hfill, ← hn, hrun]

/-! ### The operations from reset on (R96, R170) -/

/-- How many bus answers an operation uses. -/
def answersUsed : Instr → Nat
  | .pwron | .remap _ | .colwin _ _ | .rowwin _ _ | .wdata => 1
  | .unpkf | .zfill | .start | .ledt | .next | .expand _ => 0

/-- `CC` after a step in the phase (R156, R157). -/
def countAfter (p : Phase) (cc : Nat) : Nat :=
  match p with
  | .clrFill => 0
  | .clrSend => cc + 1
  | _ => cc

/-- The machine plays `ops`: these are the operations of its next steps. -/
def Plays (s : State) (ops : List Instr) : Prop := selectedOps ops.length s = ops

theorem plays_nil (s : State) : Plays s [] := rfl

theorem plays_cons {s t : State} {i : Instr} {ops : List Instr} (hi : selectOp s.cfg s.ph = some i)
    (h : step s = .next t) (ht : Plays t ops) : Plays s (i :: ops) := by
  rw [Plays] at ht ⊢
  simp only [List.length_cons, selectedOps, hi, h, ht]

/-- The machine runs under `c` at phase `p` with clear count `cc`, and the bus returns from its next `n` writes. -/
structure OnTrack (c : Cfg) (p : Phase) (cc n : Nat) (s : State) : Prop where
  inv : s.Inv
  rst : s.rst = false
  cfg : s.cfg = c
  ph : s.ph = p
  count : s.cc = cc
  bus : ∃ rs, rs.length = n ∧ s.BusReturns rs

theorem answersUsed_of_transmits {s : State} {bytes : List Byte} {i : Instr} (h : Transmits s bytes i) :
    answersUsed i = 1 := by
  obtain rfl | ⟨a, rfl⟩ | ⟨a, e, rfl⟩ | ⟨a, e, rfl⟩ | rfl := framer_of_transmits h <;> rfl

theorem Effect.busIn {s t : State} {i : Instr} (h : Effect s i t) : t.busIn = s.busIn.drop (answersUsed i) := by
  cases h with
  | transmit send _ =>
    rw [answersUsed_of_transmits send]
    exact List.drop_one.symm
  | unpkf | zfill | start | ledt | next | expand => rfl

theorem State.BusReturns.drop {s t : State} {rs : List BusResult} {k : Nat} (h : s.BusReturns rs) (hk : k ≤ rs.length)
    (ht : t.busIn = s.busIn.drop k) : t.BusReturns (rs.drop k) := by
  obtain ⟨rest, hrest⟩ := h
  refine ⟨rest, ?_⟩
  rw [ht, hrest, List.drop_append_of_le_length (by simpa using hk), List.map_drop]

theorem step_count_eq {s t : State} (h0 : s.rst = false) (h : step s = .next t) : t.cc = countAfter s.ph s.cc := by
  obtain ⟨-, hcc, -⟩ := stepWritesProtocolAndCounters s t h0 h
  rw [hcc]
  cases s.ph <;> rfl

/-- As long as the bus returns, the machine plays the operation its phase selects and goes on along the graph. -/
theorem OnTrack.advance {c : Cfg} {p : Phase} {cc n : Nat} {s : State} {i : Instr} (h : OnTrack c p cc n s)
    (hi : selectOp c p = some i) (hn : answersUsed i ≤ n) :
    ∃ q t, Edge c cc p q ∧ OnTrack c q (countAfter p cc) (n - answersUsed i) t ∧
      ∀ ops, Plays t ops → Plays s (i :: ops) := by
  obtain ⟨hs, h0, rfl, rfl, rfl, rs, rfl, hbus⟩ := h
  have hnext : ∃ u, exec i s = .next u := by
    obtain ⟨bytes, send⟩ | hnext := hs.transmits_or_next hi
    · rw [answersUsed_of_transmits send] at hn
      obtain ⟨r, rs', rfl⟩ := List.exists_cons_of_length_pos hn
      exact ⟨_, exec_of_transmits send hbus.head⟩
    · exact hnext
  obtain ⟨u, hu⟩ := hnext
  have he := exec_eq_next.1 hu
  have hstep : step s = .next (finishPhase s.ph u) := (step_eq_next_effect h0).2 ⟨i, u, hi, he, rfl⟩
  refine ⟨_, _, step_edge h0 hstep, ?_, fun ops => plays_cons hi hstep⟩
  exact {
    inv := stepKeepsTheInvariant _ _ hs hstep
    rst := (step_rst_resets h0 hstep).1
    cfg := step_cfg hstep
    ph := rfl
    count := step_count_eq h0 hstep
    bus := ⟨rs.drop (answersUsed i), List.length_drop, hbus.drop hn (by rw [finishPhase_busIn, he.busIn])⟩ }

/-- From `P_WIN_COL`: SETWIN, START (R158, R160). -/
theorem OnTrack.plays_window {c : Cfg} {cc n : Nat} {s : State} (h : OnTrack c .winCol cc n s) (hn : 2 ≤ n) :
    Plays s (pseudoSetwin c.animCols c.animRows ++ [.start]) := by
  obtain ⟨_, s₁, ⟨⟩, h₁, play₁⟩ := h.advance rfl (show 1 ≤ n by omega)
  obtain ⟨_, s₂, ⟨⟩, h₂, play₂⟩ := h₁.advance rfl (show 1 ≤ n - 1 by omega)
  obtain ⟨_, s₃, ⟨⟩, -, play₃⟩ := h₂.advance rfl (Nat.zero_le _)
  exact play₁ _ (play₂ _ (play₃ _ (plays_nil s₃)))

/-- From `P_CLR_SEND` with `k + 1` writes to come: as many WDATA, then what follows the clear (R157). -/
theorem OnTrack.plays_clearSends {c : Cfg} {cc n k : Nat} {s : State} (h : OnTrack c .clrSend cc n s)
    (hk : cc + (k + 1) = c.clearWrites) (hn : k + 1 + 2 ≤ n) :
    Plays s (List.replicate (k + 1) .wdata ++ (pseudoSetwin c.animCols c.animRows ++ [.start])) := by
  induction k generalizing cc n s with
  | zero =>
    obtain ⟨_, s₁, e, h₁, play₁⟩ := h.advance rfl (show 1 ≤ n by omega)
    cases e with
    | clrMore more => omega
    | clrDone => exact play₁ _ (h₁.plays_window (show 2 ≤ n - 1 by omega))
  | succ k ih =>
    obtain ⟨_, s₁, e, h₁, play₁⟩ := h.advance rfl (show 1 ≤ n by omega)
    cases e with
    | clrMore => exact play₁ _ (ih h₁ (show cc + 1 + (k + 1) = _ by omega) (show k + 1 + 2 ≤ n - 1 by omega))
    | clrDone done => omega

/-- From `P_CLR_COL`: CLEAR, then what follows it (R155 to R157). -/
theorem OnTrack.plays_clear {c : Cfg} {cc n : Nat} {s : State} (h : OnTrack c .clrCol cc n s)
    (hpos : 1 ≤ c.clearWrites) (hn : 2 + c.clearWrites + 2 ≤ n) :
    Plays s (pseudoClear c ++ (pseudoSetwin c.animCols c.animRows ++ [.start])) := by
  obtain ⟨k, hk⟩ := Nat.exists_eq_add_of_le' hpos
  obtain ⟨_, s₁, ⟨⟩, h₁, play₁⟩ := h.advance rfl (show 1 ≤ n by omega)
  obtain ⟨_, s₂, ⟨⟩, h₂, play₂⟩ := h₁.advance rfl (show 1 ≤ n - 1 by omega)
  obtain ⟨_, s₃, ⟨⟩, h₃, play₃⟩ := h₂.advance rfl (Nat.zero_le _)
  rw [pseudoClear, hk]
  exact play₁ _ (play₂ _ (play₃ _
    (h₃.plays_clearSends (show 0 + (k + 1) = _ by omega) (show k + 1 + 2 ≤ n - 1 - 1 - 0 by omega))))

theorem pseudoStartup_of_clear {c : Cfg} (h : c.clearEn = true) :
    pseudoStartup c =
      .pwron :: .remap c.remapOperand :: (pseudoClear c ++ (pseudoSetwin c.animCols c.animRows ++ [.start])) := by
  simp [pseudoStartup, pseudoInit, h]

theorem pseudoStartup_of_noClear {c : Cfg} (h : c.clearEn = false) :
    pseudoStartup c = .pwron :: .remap c.remapOperand :: (pseudoSetwin c.animCols c.animRows ++ [.start]) := by
  simp [pseudoStartup, pseudoInit, h]

/-- Settles O49: INIT, then the branch on `CLEAR_EN`. -/
theorem startupRunsItsSequence : Obligations.StartupRunsItsSequence := by
  unfold Obligations.StartupRunsItsSequence
  intro c k d rs q hok hn
  have h : OnTrack c .pwron 0 rs.length (State.resetOf c k d (rs.map BusAnswer.returns ++ q)) :=
    ⟨inv_resetOf _ _ _ _, rfl, rfl, by simp [hok], rfl, rs, rfl, q, rfl⟩
  obtain ⟨_, s₁, ⟨⟩, h₁, play₁⟩ := h.advance rfl (show 1 ≤ rs.length by omega)
  obtain ⟨_, s₂, e, h₂, play₂⟩ := h₁.advance rfl (show 1 ≤ rs.length - 1 by omega)
  cases e with
  | remapClear wanted =>
    rw [if_pos wanted] at hn
    rw [pseudoStartup_of_clear wanted]
    exact play₁ _ (play₂ _ (h₂.plays_clear (Cfg.clearWrites_pos_of_ok hok wanted)
      (show 2 + c.clearWrites + 2 ≤ rs.length - 1 - 1 by omega)))
  | remapWindow unwanted =>
    rw [pseudoStartup_of_noClear unwanted]
    exact play₁ _ (play₂ _ (h₂.plays_window (show 2 ≤ rs.length - 1 - 1 by omega)))

end Sys2Proof.Machine
end
